-- ==== Sys2Proof/Word.lean ====
section
/-! DEFINITION. The machine's word types: 64-bit scalars (R5, R35), bytes (R4), 32-bit instruction words (R133),
4 KiB vector registers, 1,024-bit masks (R16) and accumulator tiles of 64 x 256 f32 (R18). -/

namespace Sys2Proof

/-- A scalar register, an address or a system register (R5). -/
abbrev Word := BitVec 64

/-- One byte of memory (R4). -/
abbrev Byte := BitVec 8

/-- One 32-bit word of an instruction (R133). -/
abbrev IWord := BitVec 32

/-- A vector register: 4 KiB (R16). -/
abbrev Vec := BitVec 32768

/-- A mask register: bit e governs element e (R16, R169). -/
abbrev Mask := BitVec 1024

/-- The contents of an accumulator tile: 64 rows of 256 f32, element (i, j) at bits 32 (256 i + j) (R18). -/
abbrev Acc := BitVec 524288

end Sys2Proof
end

