-- ==== Sys2Proof/Syntax.lean ====
section
/-! DEFINITION. The instruction set as data: one constructor of Instr per row of spec/opcode_table.json. Rows with an
encoding carry every operand field of R133 to R144 (the form, too: it fixes the length); the event rows (R-numbers in
their docstrings) carry what the event is about. -/

namespace Sys2Proof

/-! ## Operand types -/

/-- s0 to s63 (R137). -/
abbrev SReg := Fin 64
/-- v0 to v31 (R137). -/
abbrev VReg := Fin 32
/-- m0 to m7 (R137). -/
abbrev MReg := Fin 8
/-- k0 to k15 (R137). -/
abbrev KReg := Fin 16
/-- z0 to z3 (R137). -/
abbrev ZReg := Fin 4
/-- ts0 to ts63 (R137). -/
abbrev TSlot := Fin 64
/-- h0 to h15 (R144). -/
abbrev HReg := Fin 16

/-- The sixteen element types, in the order of their codes (R50). -/
inductive ElemTy where
  | i8 | n8 | i16 | n16 | i32 | n32 | i64 | n64 | f32 | bf16 | f16 | t8 | t6 | i4 | n4 | e8
  deriving DecidableEq, Repr

/-- The rounding modes, in the order of their codes; code 7 is reserved (R135). -/
inductive Rm where
  | rne | rtz | rdn | rup | rna | rs | dyn
  deriving DecidableEq, Repr

/-- The scopes (R6, R135). -/
inductive Scope where
  | core | clus | dev | sys
  deriving DecidableEq, Repr

/-- Source b of a class-0 instruction (R147). In the extended register form words 1 and 2 are zero; in the imm32 form
the b field takes no part. -/
inductive SrcB where
  | reg (ext : Bool) (b : SReg)
  | imm6 (v : BitVec 6)
  | imm32 (b : BitVec 6) (v : BitVec 32)
  | lit (ext : Bool) (v : Word)
  deriving DecidableEq, Repr

/-- The address fields beside base s[a] of a class-1 load or store (R142). -/
inductive AddrB where
  | reg (b : SReg)
  | lit (v : Word)
  | ext (b : SReg) (off : BitVec 32)
  | extLit (v : Word) (off : BitVec 32)
  deriving DecidableEq, Repr

/-- A register b, or the literal of the L = 11 form, of an extended-only instruction (R138). -/
inductive RegLit where
  | reg (b : SReg)
  | lit (v : Word)
  deriving DecidableEq, Repr

/-- The value of a qpush (R158); in the imm32 form the b field takes no part. -/
inductive PushSrc where
  | reg (b : SReg)
  | imm32 (b : BitVec 6) (v : BitVec 32)
  | lit (v : Word)
  deriving DecidableEq, Repr

/-- The queues that qpush names: q4, q5, q7 (R137). -/
inductive PushQ where
  | q4 | q5 | q7
  deriving DecidableEq, Repr

/-- Widths and extension of ld and ldl, in the order of fn 0 to 6 (R142). -/
inductive LdW where
  | i8 | n8 | i16 | n16 | i32 | n32 | d64
  deriving DecidableEq, Repr

/-- Widths of st and stl (fn 0, 2, 4, 6; R142). -/
inductive StW where
  | b8 | b16 | b32 | b64
  deriving DecidableEq, Repr

/-- The operations of amo (x10 bits 3..0, R136). -/
inductive AmoOp where
  | add | min | max | minn | maxn | and | or | xor | swap
  deriving DecidableEq, Repr

/-- The ordering of an atomic (x10 bits 5..4, R136). -/
inductive AmoOrd where
  | none | acq | rel | acqrel
  deriving DecidableEq, Repr

/-- The conditions of b.cc (R154). -/
inductive Cond where
  | eq | ne | lt | ge | ltn | gen
  deriving DecidableEq, Repr

/-- The states that bflag names (R157). -/
inductive FlagSt where
  | busy | done | faulted
  deriving DecidableEq, Repr

/-- The engine that bflag samples (R157). -/
inductive FlagSel where
  | cc (a : SReg)
  | tile (t : TSlot)
  | acc (z : ZReg)
  | strm (q : Fin 4)
  deriving DecidableEq, Repr

/-- Element widths of setvl (R142). -/
inductive VW where
  | w8 | w16 | w32 | w64
  deriving DecidableEq, Repr

/-- A vector source (R137): v0-v31, a pop of q0-q5 or q7, or k0-k15. -/
inductive VSrc where
  | v (r : VReg)
  | q (j : Fin 8)
  | k (r : KReg)
  deriving DecidableEq, Repr

/-- Source b of a class-3 instruction: a vector source or the literal (R167). -/
inductive VB where
  | src (x : VSrc)
  | lit (v : Word)
  deriving DecidableEq, Repr

/-- A class-3 destination: v0-v31, or k0-k15 where one scalar is produced (R137). -/
inductive VDst where
  | v (r : VReg)
  | k (r : KReg)
  deriving DecidableEq, Repr

/-- A class-4 load destination: v0-v31, or a push of q0-q3 (R137). -/
inductive LDst where
  | v (r : VReg)
  | q (j : Fin 4)
  deriving DecidableEq, Repr

/-- The word-1 fields of a class-3 instruction; in base form (ext = false) they hold what R140 states. -/
structure VF where
  ext : Bool
  et : ElemTy
  rm : Rm
  sat : Bool
  msk : Fin 8
  dt : Bool
  deriving DecidableEq, Repr

/-- The word-1 fields that every class-4 access shares (R194). -/
structure VM where
  et : ElemTy
  msk : Fin 8
  dt : Bool
  oe : Bool
  na : Bool
  deriving DecidableEq, Repr

/-- Offset register or literal, with the signed word 2 (R196, R197). -/
inductive AddrX where
  | reg (b : SReg) (off : BitVec 32)
  | lit (v : Word) (off : BitVec 32)
  deriving DecidableEq, Repr

/-- The B operand of mmul (R217). -/
inductive MmulB where
  | tile (t : TSlot)
  | sp (b : SReg)
  deriving DecidableEq, Repr

/-- The operator tags of the update-only state (R96). -/
inductive UTag where
  | addI32 | addI64 | addF32 | minI32 | maxI32 | minN32 | maxN32 | minF32 | maxF32 | andB64 | orB64 | xorB64
  deriving DecidableEq, Repr

/-- Source b of ccadd: one-word and base-plus-literal forms have scope .dev (R233). -/
inductive CcSrc where
  | reg (b : SReg)
  | lit (v : Word)
  | extReg (b : SReg) (sc : Scope)
  | extLit (v : Word) (sc : Scope)
  deriving DecidableEq, Repr

/-- The conditions of a.b (R144). -/
inductive ACond where
  | eq | ne | ltn | gen
  deriving DecidableEq, Repr

/-- The insertion positions (R144, R245). -/
inductive Ins where
  | prot | mid | evict
  deriving DecidableEq, Repr

/-- The memory drain formats (R220). -/
inductive DrainFmt where
  | f32 | bf16 | f16
  deriving DecidableEq, Repr

/-- The ranges of instruction caches that cinv names (R243). -/
inductive CinvKind where
  | self | cl | vdev
  deriving DecidableEq, Repr

/-- A coherence request of one cluster, as the peloton network delivers it (R91, R92). -/
inductive SnoopKind where
  | read | write
  deriving DecidableEq, Repr

/-- Links, as R377 lists them. -/
inductive LinkKind where
  | mesh | dieToDie | crazan | pcie
  deriving DecidableEq, Repr

/-- The core state that a parity error may strike (R376). -/
inductive ParitySite where
  | reg (n : Nat)
  | queue (j : Fin 8)
  | tileEntry (t : TSlot)
  | acc (z : ZReg)
  | bReg (second : Bool)
  deriving DecidableEq, Repr

/-- The units whose corrected errors a scrubber or a read counts (R373, R382). -/
structure ScrubUnit where
  kind : Nat
  index : Nat
  deriving DecidableEq, Repr

/-- Registers of a core's debug block, which only a register write over Felloth reaches (R308, R314, R392). -/
inductive DbgReg where
  | dbctl | bpa (i : Fin 4) | wpa (i : Fin 2) | wpl (i : Fin 2) | recbase | terr
  deriving DecidableEq, Repr

/-- What a register write by firmware names (R10, R276). -/
inductive RegName where
  | sys (n : BitVec 12)
  | dbg (r : DbgReg)
  deriving DecidableEq, Repr

/-- One row of spec/opcode_table.json each, in the table's order. -/
inductive Instr where
  -- class 0 (R147, R148)
  | add (d a : SReg) (y : SrcB)
  | sub (d a : SReg) (y : SrcB)
  | mul (d a : SReg) (y : SrcB)
  | mulh (d a : SReg) (y : SrcB)
  | mulhn (d a : SReg) (y : SrcB)
  | div (d a : SReg) (y : SrcB)
  | divn (d a : SReg) (y : SrcB)
  | rem (d a : SReg) (y : SrcB)
  | remn (d a : SReg) (y : SrcB)
  | and (d a : SReg) (y : SrcB)
  | or (d a : SReg) (y : SrcB)
  | xor (d a : SReg) (y : SrcB)
  | andn (d a : SReg) (y : SrcB)
  | orn (d a : SReg) (y : SrcB)
  | shl (d a : SReg) (y : SrcB)
  | shr (d a : SReg) (y : SrcB)
  | sra (d a : SReg) (y : SrcB)
  | rot (d a : SReg) (y : SrcB)
  | slt (d a : SReg) (y : SrcB)
  | sltn (d a : SReg) (y : SrcB)
  | seq (d a : SReg) (y : SrcB)
  | min (d a : SReg) (y : SrcB)
  | max (d a : SReg) (y : SrcB)
  | minn (d a : SReg) (y : SrcB)
  | maxn (d a : SReg) (y : SrcB)
  | clz (ext : Bool) (d a : SReg)
  | ctz (ext : Bool) (d a : SReg)
  | popc (ext : Bool) (d a : SReg)
  | sxt (ext : Bool) (d a : SReg) (w : Fin 3)
  | zxt (ext : Bool) (d a : SReg) (w : Fin 3)
  | li (d : SReg) (y : SrcB)
  | mov (ext : Bool) (d a : SReg)
  | sel (d a c : SReg) (y : SrcB)
  | lea (d a : SReg) (y : SrcB)
  | leaPc (d : SReg) (off : BitVec 32)
  -- class 1 (R149 to R153)
  | ld (w : LdW) (d a : SReg) (o : AddrB)
  | st (w : StW) (d a : SReg) (o : AddrB)
  | ldl (w : LdW) (d a : SReg) (o : AddrB)
  | stl (w : StW) (d a : SReg) (o : AddrB)
  | amo (op : AmoOp) (ord : AmoOrd) (w64 : Bool) (sc : Scope) (d a b : SReg) (off : BitVec 32)
  | amoCas (ord : AmoOrd) (w64 : Bool) (sc : Scope) (d a b c : SReg) (off : BitVec 32)
  | semtas (j : Fin 64)
  | semtry (d : SReg) (j : Fin 64)
  | semset (j : Fin 64)
  | semclr (j : Fin 64)
  | cdrd (d : SReg) (j : Fin 32)
  | cdwr (j : Fin 32) (a : SReg)
  | cdadd (d : SReg) (j : Fin 32) (a : SReg)
  -- class 2 (R154 to R166)
  | bcc (c : Cond) (a : SReg) (y : RegLit) (off : BitVec 32)
  | jmpReg (a : SReg)
  | jmpOff (off : BitVec 32)
  | callReg (d a : SReg)
  | callOff (d : SReg) (off : BitVec 32)
  | ret (a : SReg)
  | bq (zero : Bool) (off : BitVec 32)
  | bflag (st : FlagSt) (sel : FlagSel) (off : BitVec 32)
  | setvl (w : VW) (d a : SReg) (cap : RegLit) (live : BitVec 32)
  | setvlTeam (w : VW) (d a : SReg) (cd : Fin 32) (cap : RegLit) (live : BitVec 32)
  | belayPoint (live : BitVec 32) (base : Word)
  | cairn (n : BitVec 16)
  | qpush (q : PushQ) (y : PushSrc)
  | qpop (d : SReg)
  | launch (d a : SReg)
  | trap (n : BitVec 6)
  | sysrd (d : SReg) (r : BitVec 12)
  | syswr (d : SReg) (r : BitVec 12)
  | cbmodeWrite (v : Word)
  | bankModeChangeDone (cl : Nat) (b : Fin 32)
  | pghoWrite (v : Word)
  /-- `final`: 1 ms is over and the handover is abandoned; `lost`: lines whose walk a cluster did not answer (R380). -/
  | handoverTimeout (final : Bool) (lost : List Nat)
  | tstamp (d : SReg)
  | rdcycle (d : SReg)
  | pgrefInc (d a : SReg)
  | pgrefDec (d a : SReg)
  | pgrefRd (d a : SReg)
  | tlbinvPage (a : SReg)
  | wait (a : SReg)
  -- class 3 (R167 to R192)
  | vadd (f : VF) (d : VReg) (a : VSrc) (b : VB)
  | vsub (f : VF) (d : VReg) (a : VSrc) (b : VB)
  | vmul (f : VF) (d : VReg) (a : VSrc) (b : VB)
  | vmulh (f : VF) (d : VReg) (a : VSrc) (b : VB)
  | vfma (f : VF) (d : VReg) (a : VSrc) (b : VB) (c : VSrc) (sel : BitVec 32)
  | vfms (f : VF) (d : VReg) (a : VSrc) (b : VB) (c : VSrc) (sel : BitVec 32)
  | vfnma (f : VF) (d : VReg) (a : VSrc) (b : VB) (c : VSrc) (sel : BitVec 32)
  | vdiv (f : VF) (d : VReg) (a : VSrc) (b : VB)
  | vsqrt (f : VF) (d : VReg) (a : VSrc)
  | vrcp (f : VF) (d : VReg) (a : VSrc)
  | vrsqrt (f : VF) (d : VReg) (a : VSrc)
  | vexp2 (f : VF) (d : VReg) (a : VSrc)
  | vlog2 (f : VF) (d : VReg) (a : VSrc)
  | vmin (f : VF) (d : VReg) (a : VSrc) (b : VB)
  | vmax (f : VF) (d : VReg) (a : VSrc) (b : VB)
  | vabs (f : VF) (d : VReg) (a : VSrc)
  | vneg (f : VF) (d : VReg) (a : VSrc)
  | vand (f : VF) (d : VReg) (a : VSrc) (b : VB)
  | vor (f : VF) (d : VReg) (a : VSrc) (b : VB)
  | vxor (f : VF) (d : VReg) (a : VSrc) (b : VB)
  | vnot (f : VF) (d : VReg) (a : VSrc)
  | vshl (f : VF) (d : VReg) (a : VSrc) (b : VB)
  | vshr (f : VF) (d : VReg) (a : VSrc) (b : VB)
  | vsra (f : VF) (d : VReg) (a : VSrc) (b : VB)
  | vclz (f : VF) (d : VReg) (a : VSrc)
  | vpopc (f : VF) (d : VReg) (a : VSrc)
  /-- `cond`: x10 bits 3..0, u then rel (R178). -/
  | vcmp (f : VF) (d : MReg) (a : VSrc) (b : VB) (cond : BitVec 4)
  | vclass (f : VF) (d : MReg) (a : VSrc) (set : BitVec 9)
  | vsel (f : VF) (d : VReg) (a : VSrc) (b : VB) (mc : MReg)
  | vcvt (f : VF) (d : VReg) (a : VSrc) (c : VReg) (src : ElemTy) (bs : Bool)
  | vscale (f : VF) (d : VReg) (a : VSrc) (b : VB) (blk : Bool)
  | vpack (f : VF) (d : VReg) (a : VSrc) (c : VReg)
  | vredsum (f : VF) (d : VDst) (a : VSrc) (wide : Bool)
  | vredmax (f : VF) (d : VDst) (a : VSrc) (wide : Bool)
  | vredmin (f : VF) (d : VDst) (a : VSrc) (wide : Bool)
  | vperm (f : VF) (d : VReg) (a : VSrc) (b : VB)
  | vpermb (f : VF) (d : VReg) (a : VSrc) (b c cd : VReg)
  | vslideup (f : VF) (d : VReg) (a : VSrc) (n : VB)
  | vslidedown (f : VF) (d : VReg) (a : VSrc) (n : VB)
  | vcompress (f : VF) (d : VReg) (a : VSrc) (mc : MReg)
  | vexpand (f : VF) (d : VReg) (a : VSrc) (mc : MReg)
  | vbcast (f : VF) (d : VReg) (a : VSrc) (n : VB)
  | vmv (f : VF) (d : VDst) (a : VSrc) (idx : BitVec 32)
  | viota (f : VF) (d : VReg) (ma : MReg)
  | viotaIdx (f : VF) (d : VReg)
  | vmpop (f : VF) (d : KReg) (ma : MReg)
  | vmfirst (f : VF) (d : KReg) (ma : MReg)
  | vany (f : VF) (d : KReg) (ma : MReg)
  | mand (f : VF) (d ma mb : MReg)
  | mor (f : VF) (d ma mb : MReg)
  | mxor (f : VF) (d ma mb : MReg)
  | mnot (f : VF) (d ma : MReg)
  | mset (f : VF) (d : MReg) (n : VB)
  | vdefer (f : VF) (a b c x : VReg) (cnt : Fin 4)
  | vdrain (f : VF) (d a b c : VReg) (cnt : Fin 4) (viOn : Bool) (vi : VReg) (cap : BitVec 11)
  | vhash (f : VF) (d : VReg) (a : VSrc) (b : VB)
  | vtoq (f : VF) (k : KReg)
  -- class 4 (R193 to R209, R350)
  | vld (m : VM) (d : LDst) (a : SReg) (o : AddrX)
  | vldff (m : VM) (d : LDst) (a : SReg) (o : AddrX)
  | vst (m : VM) (s : VReg) (a : SReg) (o : AddrX)
  | vlds (m : VM) (d : LDst) (a : SReg) (o : AddrX)
  | vsts (m : VM) (s : VReg) (a : SReg) (o : AddrX)
  | vldseg (m : VM) (d : VReg) (a : SReg) (o : RegLit) (f : BitVec 4)
  | vstseg (m : VM) (s : VReg) (a : SReg) (o : RegLit) (f : BitVec 4)
  | vldx (m : VM) (d : LDst) (a : SReg) (c : VReg)
  | vstx (m : VM) (s : VReg) (a : SReg) (c : VReg)
  | vldl (m : VM) (d : LDst) (a : SReg) (o : AddrX) (c : Option VReg)
  | vstl (m : VM) (s : VReg) (a : SReg) (o : AddrX) (c : Option VReg)
  | vrred (m : VM) (rm : Rm) (sat : Bool) (sc : Scope) (s : VReg) (a : SReg) (o : AddrX) (c : Option VReg)
  | vresume (d : SReg)
  -- class 5 (R211 to R222)
  | mattach (d a : SReg)
  | mattachImm (d : SReg) (req : BitVec 32)
  | mdetach (mask : BitVec 6)
  | mzero (z : ZReg)
  | mpack (td ta : TSlot) (et : ElemTy) (p : BitVec 5) (b scaled : Bool) (rows : BitVec 7)
  | mpackComplete (i : Nat)
  | mmul (z : ZReg) (ta : TSlot) (b : MmulB) (pa pb : BitVec 5) (rows : BitVec 7) (row0 : BitVec 6)
  | matrixGrant (cl : Nat)
  | bLoadComplete (cl : Nat) (second : Bool)
  | mmulPassComplete (i : Nat)
  | mdrain (t : TSlot) (z : ZReg)
  | mdrainExt (t : TSlot) (z : ZReg) (fmt : DrainFmt) (zero : Bool) (rows : BitVec 7) (row0 : BitVec 6)
  | mdrainComplete (i : Nat)
  | mdrainf (z : ZReg) (slot : Fin 8) (zero : Bool)
  | crazanContribution (id round rank : Nat) (data : Acc)
  | collectiveRoundComplete (id round : Nat)
  | collectiveAbort (id round : Nat)
  -- class 6 (R221, R223 to R233, R351)
  | coll (d a : SReg) (slot : Fin 8) (leave : Bool) (sc : Scope)
  | cpy (sc : Scope) (d a b c : SReg) (fill : Bool) (t : TSlot)
  | cpyseg (sc : Scope) (d a b c : SReg) (f : BitVec 4) (size : Fin 4) (perm : Bool) (vi : VReg) (fill : Bool) (t : TSlot)
  | cpyx (sc : Scope) (d a b c : SReg) (vi : VReg) (fill : Bool) (t : TSlot)
  | copyComplete (i : Nat)
  | copyFault (i : Nat)
  | cpyresume (d a : SReg)
  | strm (sc : Scope) (q : Fin 4) (a b : SReg) (w : Fin 4)
  | streamEntryPush (q : Fin 4)
  | streamFaultTaken (q : Fin 4)
  | strmend (q : Fin 4)
  | tdecl (t : TSlot) (a b : SReg) (fills : BitVec 16)
  | trel (t : TSlot)
  | tileRetire (t : TSlot)
  | tstate (d : SReg) (t : TSlot)
  | ccwait (sc : Scope) (a : SReg) (y : RegLit)
  | ccadd (d a : SReg) (y : CcSrc)
  -- class 7 (R235 to R243)
  | fenceAcq (sc : Scope)
  | fenceRel (sc : Scope)
  | fenceAcqrel (sc : Scope)
  | ustore (tag : UTag) (rel : Bool) (sc : Scope) (d a : SReg) (o : AddrX)
  | vustore (m : VM) (tag : UTag) (rel : Bool) (sc : Scope) (s : VReg) (a : SReg) (o : AddrX) (c : Option VReg)
  | vlockacq (sc : Scope) (msk : Fin 8) (dt : Bool) (d : MReg) (a : SReg) (c : VReg) (off : BitVec 32)
  | vlockrel (sc : Scope) (msk : Fin 8) (dt : Bool) (a : SReg) (c : VReg) (off : BitVec 32)
  | cflush (inv : Bool) (sc : Scope) (a : SReg) (len : AddrX)
  | cinv (kind : CinvKind) (a : SReg) (len : AddrX)
  -- advice space (R144, R244 to R250)
  | aPf (cc : Bool) (pos : Ins) (ha hb : HReg)
  | aPft (ha hb : HReg)
  | aIns (pos : Ins) (ha hb : HReg)
  | aCpri (tile : Bool) (ha : HReg) (pri : BitVec 4)
  | aMord (co : Bool) (codes : BitVec 8)
  | aLdidx (hd ha : HReg) (w : Fin 4)
  | aAwait (c : BitVec 16) (s : BitVec 8)
  | aJmp (target : BitVec 11)
  | aB (c : ACond) (ha hb : HReg) (target : BitVec 11)
  | aLi (hd : HReg) (imm : BitVec 16) (p : Fin 4)
  | aAdd (hd ha hb : HReg) (imm : BitVec 16)
  | aMul (hd ha hb : HReg)
  | aAnd (hd ha hb : HReg)
  | aShr (hd ha : HReg) (n : BitVec 6)
  | aRdstrip (hd : HReg)
  -- command windows and scheduling (R251 to R269, R288)
  | installVirtualDeviceRecord (win : Fin 16) (pa : Word)
  | launchCommand (win : Fin 16) (va vdid : Word) (pid tid : BitVec 32)
  | registerCollective (win : Fin 16) (pa : Word)
  | unregisterCollective (win : Fin 16) (id : Word)
  | installDumpKey (win : Fin 16) (pa slot : Word)
  | clockMode (win : Fin 16) (mode : Word)
  | nextWave (cgid : BitVec 32)
  | preemptionSaveComplete (cgid : BitVec 32)
  | restoreComplete (cgid : BitVec 32)
  | launchPacket
  | arbiterWindow (kind inst : Nat)
  | arbiterGrant (kind inst : Nat) (vdid : Nat) (cls units : Nat)
  -- coherence (R88 to R107)
  | pelotonDelivery (cl line : Nat) (k : SnoopKind)
  | pelotonRefusal (cl line : Nat)
  | transientRequest (gw : Fin 5) (line : Nat) (write : Bool)
  | tokenResponse (gw : Fin 5) (line : Nat)
  | persistentEscalation (gw : Fin 5) (line : Nat)
  | persistentActivate (home : Fin 5)
  | persistentTimeout (line : Nat)
  | mergeCollect (slot line : Nat)
  | collectAnswer (slot line : Nat)
  | mergeCollectTimeout (slot line : Nat)
  | wLineTimeout (cl line : Nat)
  -- power and clocks (R299 to R306, R394, R395)
  | droopAlarm (die : Fin 4)
  | droopPhaseEnd (die : Fin 4)
  | powerControlTick (watts : Nat) (temps : List Int)
  | vfStepComplete (die : Fin 4)
  -- watchdogs and group ends (R345, R348, R389)
  | killFinishAdd (cgid : BitVec 32)
  -- debug (R307 to R318)
  | registerWrite (r : RegName) (v : Word)
  | dumpRequest (vdid : Nat) (pa : Word)
  -- partitions, boot, management (R271, R293, R294, R298)
  | partitionCoreMove (j x y : Fin 16)
  | negotiateAlgorithms (p384 sha384 : Bool)
  | getMeasurements (i : Nat)
  -- fetches that fail (R155), ends of dumps and of retraining (R318, R377)
  | instructionFetchFault (kind : BitVec 8) (level : Nat) (addr : Word)
  | dumpComplete (destBad : Bool)
  | retrainComplete (k : LinkKind) (i : Nat) (ok : Bool)
  -- what comes from outside or from the hardware itself, with no other unit asking for it
  | hostAccess (party : BitVec 4) (pa : Word) (write : Option (List Byte))
  | rootPortInboundRequest (port : Fin 4) (pa : Word) (write : Option (List Byte))
  | cacheDataError (cl line : Nat) (sectors : List (Fin 4)) (memoryBad : Bool)
  | cacheTagParityError (cl line : Nat) (stateGood : Bool)
  | registerParityError (site : ParitySite)
  | linkRetryExhausted (k : LinkKind) (i : Nat)
  | scrubTick (u : ScrubUnit)
  | timingErrorDetected (lane : Fin 32)
  | bootStage (image : List Byte)
  | challenge (nonce : List Byte)
  -- rows without operands (R109 to R119, R146, R162, R163, R166, R255, R293, R308 to R313 and others)
  | eret
  | yield
  | advstStopWrite
  | handoverPass
  | tlbinvAll
  | halt
  | nop
  | aStop
  | adviceReadReturn
  | adviceLoadComplete
  | adviceRequestTimeout
  | selectionSlot
  | stripBudgetExpiry
  | uRequest
  | uGrant
  | laneGateTimeout
  | queueDeadlockWatchdog
  | tileWatchdog
  | supervisorTimeout
  | stop
  | run
  | step
  | stepBlocked
  | reverseStep
  | forwardStep
  | reset
  | getVersion
  | getCapabilities
  | getDigests
  | getCertificate
  | pldmRequest
  | mctpControlMessage
  | reservedEncoding
  | noAdviceInstruction
  | waitTimeout
  deriving DecidableEq, Repr

end Sys2Proof
end

