-- ==== Sys2Proof/WellFormed.lean ====
section
/-! DEFINITION. Which instructions an encoding may state: the limits of R135 to R144 and of the operand tables of each
class (R167, R194, R195, R216, R217, R235, R238), gathered in R355 to R367. An ill-formed term is a reserved encoding. -/

namespace Sys2Proof

/-- The type set I of R167. -/
def ElemTy.isI : ElemTy → Bool
  | .i8 | .n8 | .i16 | .n16 | .i32 | .n32 | .i64 | .n64 => true
  | _ => false

/-- The type set F of R167. -/
def ElemTy.isF : ElemTy → Bool
  | .f32 | .bf16 | .f16 => true
  | _ => false

/-- The type set T of R167. -/
def ElemTy.isT : ElemTy → Bool
  | .t8 | .t6 => true
  | _ => false

/-- F and T: the types that rm rounds (R171). -/
def ElemTy.isFT (t : ElemTy) : Bool := t.isF || t.isT

/-- I, F and T. -/
def ElemTy.isIFT (t : ElemTy) : Bool := t.isI || t.isFT

/-- The types of a packed array (R195, R198). -/
def ElemTy.isPacked : ElemTy → Bool
  | .i4 | .n4 | .t6 => true
  | _ => false

/-- The element types that fn selects in base form (R140). -/
def ElemTy.inBase : ElemTy → Bool
  | .f32 | .bf16 | .f16 | .t8 | .i32 | .n32 | .i16 | .i8 => true
  | _ => false

/-- Word-1 fields of an extended form, or what R140 fixes in base form. -/
def VF.formOk (f : VF) : Bool :=
  if f.ext then (!f.dt || f.msk != 0)
  else f.et.inBase && f.rm == .dyn && !f.sat && f.msk == 0 && !f.dt

/-- A class-3 op that takes element types `p` and admits the base form. -/
def VF.ok (f : VF) (p : ElemTy → Bool) : Bool := f.formOk && p f.et

/-- An extended-only class-3 op (R141). -/
def VF.okX (f : VF) (p : ElemTy → Bool) : Bool := f.ext && f.ok p

/-- A class-3 op without element type: fn = 0 and et = 0 (R140). -/
def VF.okNone (f : VF) : Bool := f.formOk && f.et == .i8

/-- q6 is no vector source (R137). -/
def VSrc.ok : VSrc → Bool
  | .q j => j != 6
  | _ => true

def VB.ok : VB → Bool
  | .src x => x.ok
  | .lit _ => true

/-- The scalar operand n: k0-k15, q4, q5, q7 or the literal (R167). -/
def VB.okN : VB → Bool
  | .src (.k _) => true
  | .src (.q j) => j == 4 || j == 5 || j == 7
  | .src (.v _) => false
  | .lit _ => true

def VSrc.isV : VSrc → Bool
  | .v _ => true
  | _ => false

def VB.isV : VB → Bool
  | .src x => x.isV
  | .lit _ => false

def VB.isLit : VB → Bool
  | .lit _ => true
  | .src _ => false

/-- sel is extended only (R148). -/
def SrcB.okSel : SrcB → Bool
  | .reg ext _ => ext
  | .imm6 _ => false
  | .imm32 _ _ => true
  | .lit ext _ => ext

/-- The system register numbers of R143; 0x20A to 0x2FF are INFLIGHT numbers that read zero (R311). -/
def sysNumOk (r : BitVec 12) : Bool :=
  let n := r.toNat
  (n ≤ 0x014 && n != 0x009 && n != 0x013) || n == 0x015 || n == 0x018 || n == 0x019 || n == 0x020 || n == 0x021
    || n == 0x030 || n == 0x031 || n == 0x032 || (0x040 ≤ n && n ≤ 0x04F) || n == 0x100 || (0x200 ≤ n && n ≤ 0x2FF)

/-- Fused operands' scale selectors (R175). -/
def fmaOk (f : VF) (a : VSrc) (b : VB) (c : VSrc) (sel : BitVec 32) : Bool :=
  f.okX ElemTy.isIFT && a.ok && b.ok && c.ok && sel.extractLsb' 14 18 == 0 && sel.extractLsb' 6 2 == 0
    && (!sel.getLsbD 5 || (a.isV && f.et.isFT)) && (!sel.getLsbD 13 || (b.isV && f.et.isFT))

/-- vcmp's relation and u (R178). -/
def vcmpOk (et : ElemTy) (cond : BitVec 4) : Bool :=
  let rel := cond.extractLsb' 0 3
  let u := cond.getLsbD 3
  rel != 7 && (rel != 6 || u) && (!u || et.isFT)

/-- vcvt's pairs of types and its block-scaled source (R181, R360): e8 goes with the I types alone, and with itself as an
integer conversion (DESIGN CHOICE: no row of the table names e8 to e8; log 55). -/
def vcvtOk (dst src : ElemTy) (bs : Bool) : Bool :=
  let e8With (t : ElemTy) : Bool := t.isI || t == .e8
  (dst != .e8 || e8With src) && (src != .e8 || e8With dst) && (!bs || src.isFT)

def vpackTy : ElemTy → Bool
  | .t8 | .t6 | .f16 | .i8 | .i4 => true
  | _ => false

def deferTy : ElemTy → Bool
  | .i32 | .n32 | .f32 => true
  | _ => false

def hashTy : ElemTy → Bool
  | .i32 | .n32 => true
  | _ => false

def vrredTy : ElemTy → Bool
  | .f32 | .i32 | .n32 | .i64 | .n64 => true
  | _ => false

def mpackTy : ElemTy → Bool
  | .f32 | .bf16 | .f16 | .t8 | .i8 | .i16 | .i32 => true
  | _ => false

/-- The types that vustore admits for a tag (R238). -/
def vustoreTy : UTag → ElemTy → Bool
  | .addI32, .i32 | .addI32, .n32 => true
  | .minI32, .i32 | .maxI32, .i32 => true
  | .minN32, .n32 | .maxN32, .n32 => true
  | .addF32, .f32 | .minF32, .f32 | .maxF32, .f32 => true
  | .addI64, .i64 | .addI64, .n64 => true
  | .andB64, .i64 | .andB64, .n64 | .orB64, .i64 | .orB64, .n64 | .xorB64, .i64 | .xorB64, .n64 => true
  | _, _ => false

/-- Word-1 fields that class-4 accesses share (R194): dt needs a mask; oe, na and packed types only where admitted. -/
def VM.ok (m : VM) (packed oe na : Bool) : Bool :=
  (!m.dt || m.msk != 0) && (packed || !m.et.isPacked) && (oe || !m.oe) && (na || !m.na)

/-- vldseg and vstseg: field count and last register (R194). -/
def segOk (d : VReg) (f : BitVec 4) : Bool :=
  2 ≤ f.toNat && f.toNat ≤ 8 && d.val + f.toNat ≤ 32

def anyTy (_ : ElemTy) : Bool := true

/-- Plane counts (R136). -/
def planesOk (p : BitVec 5) : Bool := 1 ≤ p.toNat && p.toNat ≤ 25

/-- The instruction is one that some encoding states; event rows have no encoding and are always well formed. -/
def Instr.wf : Instr → Bool
  | Instr.sel _ _ _ y => y.okSel
  | .sysrd _ r | .syswr _ r => sysNumOk r
  | .vadd f _ a b | .vsub f _ a b | .vmul f _ a b | .vmin f _ a b | .vmax f _ a b | .vdiv f _ a b =>
    f.ok ElemTy.isIFT && a.ok && b.ok
  | .vmulh f _ a b | .vand f _ a b | .vor f _ a b | .vxor f _ a b | .vshl f _ a b | .vshr f _ a b | .vsra f _ a b =>
    f.ok ElemTy.isI && a.ok && b.ok
  | .vfma f _ a b c ss | .vfms f _ a b c ss | .vfnma f _ a b c ss => fmaOk f a b c ss
  | .vsqrt f _ a | .vrcp f _ a | .vrsqrt f _ a | .vexp2 f _ a | .vlog2 f _ a => f.ok ElemTy.isFT && a.ok
  | .vabs f _ a | .vneg f _ a => f.ok ElemTy.isIFT && a.ok
  | .vnot f _ a | .vclz f _ a | .vpopc f _ a => f.ok ElemTy.isI && a.ok
  | .vcmp f _ a b cond => f.okX ElemTy.isIFT && a.ok && b.ok && vcmpOk f.et cond
  | .vclass f _ a _ => f.okX ElemTy.isFT && a.ok
  | .vsel f _ a b _ => f.okX anyTy && a.ok && b.ok
  | .vcvt f _ a c src bs => f.okX anyTy && a.ok && vcvtOk f.et src bs && (bs || c == 0)
  | .vscale f _ a b blk => f.okX ElemTy.isFT && a.ok && b.ok && (!blk || b.isV)
  | .vpack f _ a _ => f.okX vpackTy && a.ok && !f.sat
  | .vredsum f _ a wide | .vredmax f _ a wide | .vredmin f _ a wide => f.ok ElemTy.isIFT && a.ok && (!wide || f.ext)
  | .vperm f _ a b => f.ok anyTy && a.ok && b.ok
  | .vpermb f _ a _ _ _ => f.okX anyTy && a.ok && f.msk == 0
  | .vslideup f _ a n | .vslidedown f _ a n | .vbcast f _ a n => f.ok anyTy && a.ok && n.okN
  | .vcompress f _ a _ | .vexpand f _ a _ => f.okX anyTy && a.ok && f.msk == 0
  | .vmv f d a idx => f.ok anyTy && a.ok &&
    (match d with
     | .v _ => idx == 0
     | .k _ => f.msk == 0 && (f.ext || idx == 0))
  | .viota f _ _ => f.ok ElemTy.isI
  | .viotaIdx f _ => f.okX ElemTy.isI
  | .vmpop f _ _ | .vmfirst f _ _ | .vany f _ _ | .mnot f _ _ => f.okNone
  | .mand f _ _ _ | .mor f _ _ _ | .mxor f _ _ _ => f.okNone
  | .mset f _ n => f.okNone && n.okN
  | .vdefer f _ b c x cnt => f.okX deferTy && (1 ≤ cnt.val || b == 0) && (2 ≤ cnt.val || c == 0) && (3 ≤ cnt.val || x == 0)
  | .vdrain f _ a b c cnt _ _ cap =>
    f.okX deferTy && f.msk == 0 && (1 ≤ cnt.val || a == 0) && (2 ≤ cnt.val || b == 0) && (3 ≤ cnt.val || c == 0)
      && 1 ≤ cap.toNat && cap.toNat ≤ 1024
  | .vhash f _ a b => f.ok hashTy && a.ok && b.ok
  | .vtoq f _ => f.okNone
  | .vld m _ _ _ | .vst m _ _ _ => m.ok true true true
  | .vldff m _ _ _ | .vlds m _ _ _ | .vsts m _ _ _ | .vldx m _ _ _ | .vstx m _ _ _ => m.ok false true true
  | .vldseg m d _ _ f => m.ok false false true && segOk d f
  | .vstseg m d _ _ f => m.ok false true true && segOk d f
  | .vldl m _ _ _ _ | .vstl m _ _ _ _ => m.ok false false false
  | .vrred m rm _ _ _ _ _ c => m.ok false true false && vrredTy m.et && (m.et == .f32 || (rm == .rne && c.isNone))
  | .mdetach mask => !mask.getLsbD 5
  | .mpack _ _ et p b _ rows =>
    mpackTy et && 2 ≤ p.toNat && p.toNat ≤ 25 && (if b then rows == 0 else 1 ≤ rows.toNat && rows.toNat ≤ 64)
  | .mmul _ _ _ pa pb rows _ => planesOk pa && planesOk pb && 1 ≤ rows.toNat && rows.toNat ≤ 64
  | .cpy _ _ _ b _ _ _ => b.val ≤ 61
  | .cpyseg _ _ _ b _ f _ _ _ _ _ => b.val ≤ 62 && 2 ≤ f.toNat && f.toNat ≤ 8
  | .cpyx _ _ _ b _ _ _ _ => b.val ≤ 62
  | .strm _ _ _ b _ => b.val ≤ 62
  | .tdecl _ _ _ _ => true
  | .ustore _ rel sc _ _ _ => rel || sc == .core
  | .vustore m tag rel sc _ _ o c =>
    m.ok false true false && vustoreTy tag m.et && (rel || sc == .core) &&
    (match c, o with
     | none, _ => true
     | some _, .reg b _ => b == 0
     | some _, .lit _ _ => false)
  | .vlockacq _ msk dt _ _ _ _ | .vlockrel _ msk dt _ _ _ => !dt || msk != 0
  | .cflush _ sc _ _ => sc == .dev || sc == .sys
  | .aAwait c s => c.toNat + s.toNat ≤ 0xFFFF
  | _ => true

end Sys2Proof
end

