-- ==== Sys2Proof/Decode.lean ====
section
/-! DEFINITION. Instruction framing and decoding (R133 to R146). `layout` is the encoding table of each instruction as
fields; `candidate` reads the fields of one class and op; `decodeRaw` accepts exactly a well-formed candidate whose
layout gives every bit that was read, so that a nonzero field required to be 0 is refused (R145). The encoder follows. -/

namespace Sys2Proof

/-! ## Bits, bytes and words -/

/-- The first word's fields but L (R134). -/
structure Base where
  fn : BitVec 3
  b : BitVec 6
  a : BitVec 6
  d : BitVec 6
  op : BitVec 6
  cls : BitVec 3
  deriving DecidableEq, Repr

/-- Words 1 and 2 (R135). -/
structure Ext where
  x10 : BitVec 10
  c : BitVec 6
  ff : Bool
  sat : Bool
  oe : Bool
  sc : BitVec 2
  rm : BitVec 3
  et : BitVec 4
  dt : Bool
  msk : BitVec 3
  w2 : BitVec 32
  deriving DecidableEq, Repr

/-- The four lengths (R133). -/
inductive Raw where
  | one (w : Base)
  | lit (w : Base) (v : Word)
  | ext (w : Base) (x : Ext)
  | extLit (w : Base) (x : Ext) (v : Word)
  deriving DecidableEq, Repr

def Ext.zero : Ext := ⟨0, 0, false, false, false, 0, 0, 0, false, 0, 0⟩

def bit (p : Bool) : BitVec 1 := BitVec.ofBool p

/-- The first word: fields from the most significant (R134). -/
def Base.word (w : Base) (l : BitVec 2) : IWord := w.fn ++ w.b ++ w.a ++ w.d ++ w.op ++ w.cls ++ l

def Base.ofWord (x : IWord) : Base :=
  ⟨x.extractLsb' 29 3, x.extractLsb' 23 6, x.extractLsb' 17 6, x.extractLsb' 11 6, x.extractLsb' 5 6, x.extractLsb' 2 3⟩

/-- Word 1: fields from the most significant (R135). -/
def Ext.word1 (x : Ext) : IWord :=
  x.x10 ++ x.c ++ bit x.ff ++ bit x.sat ++ bit x.oe ++ x.sc ++ x.rm ++ x.et ++ bit x.dt ++ x.msk

def Ext.ofWords (w1 w2 : IWord) : Ext :=
  ⟨w1.extractLsb' 22 10, w1.extractLsb' 16 6, w1.getLsbD 15, w1.getLsbD 14, w1.getLsbD 13, w1.extractLsb' 11 2,
   w1.extractLsb' 8 3, w1.extractLsb' 4 4, w1.getLsbD 3, w1.extractLsb' 0 3, w2⟩

/-- The words of a 64-bit literal, low word first (R133). -/
def litWords (v : Word) : List IWord := [v.extractLsb' 0 32, v.extractLsb' 32 32]

def litOf (lo hi : IWord) : Word := hi ++ lo

/-- The words of an instruction in address order (R133). -/
def Raw.words : Raw → List IWord
  | .one w => [w.word 0]
  | .lit w v => w.word 1 :: litWords v
  | .ext w x => [w.word 2, x.word1, x.w2]
  | .extLit w x v => w.word 3 :: x.word1 :: x.w2 :: litWords v

/-- How many words an instruction has, from bits 1..0 of its first word alone (R133). -/
def lengthOf (w0 : IWord) : Nat :=
  match (w0.extractLsb' 0 2).toNat with
  | 0 => 1
  | 1 => 3
  | 2 => 3
  | _ => 5

/-- The fields of the instruction that the words begin with; none when words are missing. -/
def Raw.ofWords (ws : List IWord) : Option Raw :=
  match ws with
  | [] => none
  | w0 :: rest =>
    match (w0.extractLsb' 0 2).toNat, rest with
    | 0, _ => some (.one (.ofWord w0))
    | 1, lo :: hi :: _ => some (.lit (.ofWord w0) (litOf lo hi))
    | 2, w1 :: w2 :: _ => some (.ext (.ofWord w0) (.ofWords w1 w2))
    | 3, w1 :: w2 :: lo :: hi :: _ => some (.extLit (.ofWord w0) (.ofWords w1 w2) (litOf lo hi))
    | _, _ => none

def Raw.base : Raw → Base
  | .one w | .lit w _ | .ext w _ | .extLit w _ _ => w

def Raw.x : Raw → Ext
  | .one _ | .lit _ _ => .zero
  | .ext _ x | .extLit _ x _ => x

def Raw.litV : Raw → Word
  | .lit _ v | .extLit _ _ v => v
  | _ => 0

def Raw.isExt : Raw → Bool
  | .ext _ _ | .extLit _ _ _ => true
  | _ => false

def Raw.hasLit : Raw → Bool
  | .lit _ _ | .extLit _ _ _ => true
  | _ => false

/-- Four bytes of a word, least significant first (R4). -/
def wordBytes (w : IWord) : List Byte :=
  [w.extractLsb' 0 8, w.extractLsb' 8 8, w.extractLsb' 16 8, w.extractLsb' 24 8]

/-- The whole words that a run of bytes begins with (R4, R133). -/
def wordsOfBytes : List Byte → List IWord
  | b0 :: b1 :: b2 :: b3 :: rest => (b3 ++ b2 ++ b1 ++ b0) :: wordsOfBytes rest
  | _ => []

/-! ## Codes of the fields -/

def regCode {n : Nat} (r : Fin n) : BitVec 6 := BitVec.ofNat 6 r.val

def sregOf (c : BitVec 6) : SReg := c.toFin
def finOf {n : Nat} (c : BitVec 6) (h : 0 < n := by decide) : Fin n := ⟨c.toNat % n, Nat.mod_lt _ h⟩

/-- The codes of R50. -/
def ElemTy.code : ElemTy → BitVec 4
  | .i8 => 0 | .n8 => 1 | .i16 => 2 | .n16 => 3 | .i32 => 4 | .n32 => 5 | .i64 => 6 | .n64 => 7
  | .f32 => 8 | .bf16 => 9 | .f16 => 10 | .t8 => 11 | .t6 => 12 | .i4 => 13 | .n4 => 14 | .e8 => 15

def ElemTy.ofCode (c : BitVec 4) : ElemTy :=
  match c.toNat with
  | 0 => .i8 | 1 => .n8 | 2 => .i16 | 3 => .n16 | 4 => .i32 | 5 => .n32 | 6 => .i64 | 7 => .n64
  | 8 => .f32 | 9 => .bf16 | 10 => .f16 | 11 => .t8 | 12 => .t6 | 13 => .i4 | 14 => .n4 | _ => .e8

/-- The base form's element types by fn (R140). -/
def ElemTy.baseFn : ElemTy → BitVec 3
  | .f32 => 0 | .bf16 => 1 | .f16 => 2 | .t8 => 3 | .i32 => 4 | .n32 => 5 | .i16 => 6 | _ => 7

def ElemTy.ofBaseFn (f : BitVec 3) : ElemTy :=
  match f.toNat with
  | 0 => .f32 | 1 => .bf16 | 2 => .f16 | 3 => .t8 | 4 => .i32 | 5 => .n32 | 6 => .i16 | _ => .i8

/-- The codes of R135; 7 is reserved, and the layout of its reading differs from what was read. -/
def Rm.code : Rm → BitVec 3
  | .rne => 0 | .rtz => 1 | .rdn => 2 | .rup => 3 | .rna => 4 | .rs => 5 | .dyn => 6

def Rm.ofCode (c : BitVec 3) : Rm :=
  match c.toNat with
  | 0 => .rne | 1 => .rtz | 2 => .rdn | 3 => .rup | 4 => .rna | 5 => .rs | _ => .dyn

def Scope.code : Scope → BitVec 2
  | .core => 0 | .clus => 1 | .dev => 2 | .sys => 3

def Scope.ofCode (c : BitVec 2) : Scope :=
  match c.toNat with
  | 0 => .core | 1 => .clus | 2 => .dev | _ => .sys

/-- Vector source codes (R137). -/
def VSrc.code : VSrc → BitVec 6
  | .v r => regCode r
  | .q j => BitVec.ofNat 6 (32 + j.val)
  | .k r => BitVec.ofNat 6 (48 + r.val)

def VSrc.ofCode (c : BitVec 6) : VSrc :=
  if c.toNat < 32 then .v (finOf c) else if c.toNat < 48 then .q (finOf c) else .k (finOf c)

/-- Class-3 destination codes (R137). -/
def VDst.code : VDst → BitVec 6
  | .v r => regCode r
  | .k r => BitVec.ofNat 6 (48 + r.val)

def VDst.ofCode (c : BitVec 6) : VDst := if c.toNat < 32 then .v (finOf c) else .k (finOf c)

/-- Load destination codes (R194). -/
def LDst.code : LDst → BitVec 6
  | .v r => regCode r
  | .q j => BitVec.ofNat 6 (32 + j.val)

def LDst.ofCode (c : BitVec 6) : LDst := if c.toNat < 32 then .v (finOf c) else .q (finOf c)

def kCode (r : KReg) : BitVec 6 := BitVec.ofNat 6 (48 + r.val)

/-- c of vldl, vstl, vrred and vustore: 0-31, or 32 for none (R194, R238). -/
def optVCode : Option VReg → BitVec 6
  | some r => regCode r
  | none => 32

def optVOf (c : BitVec 6) : Option VReg := if c == 32 then none else some (finOf c)

def UTag.code : UTag → BitVec 4
  | .addI32 => 1 | .addI64 => 2 | .addF32 => 3 | .minI32 => 5 | .maxI32 => 6 | .minN32 => 7 | .maxN32 => 8
  | .minF32 => 9 | .maxF32 => 10 | .andB64 => 11 | .orB64 => 12 | .xorB64 => 13

/-- The tags of R96; 0, 4, 14 and 15 are reserved. -/
def UTag.ofCode (c : BitVec 4) : Option UTag :=
  match c.toNat with
  | 1 => some .addI32 | 2 => some .addI64 | 3 => some .addF32 | 5 => some .minI32 | 6 => some .maxI32
  | 7 => some .minN32 | 8 => some .maxN32 | 9 => some .minF32 | 10 => some .maxF32 | 11 => some .andB64
  | 12 => some .orB64 | 13 => some .xorB64 | _ => none

def LdW.fn : LdW → BitVec 3
  | .i8 => 0 | .n8 => 1 | .i16 => 2 | .n16 => 3 | .i32 => 4 | .n32 => 5 | .d64 => 6

def LdW.ofFn (f : BitVec 3) : LdW :=
  match f.toNat with
  | 0 => .i8 | 1 => .n8 | 2 => .i16 | 3 => .n16 | 4 => .i32 | 5 => .n32 | _ => .d64

def StW.fn : StW → BitVec 3
  | .b8 => 0 | .b16 => 2 | .b32 => 4 | .b64 => 6

def StW.ofFn (f : BitVec 3) : StW :=
  match f.toNat with
  | 0 => .b8 | 2 => .b16 | 4 => .b32 | _ => .b64

def AmoOp.code : AmoOp → BitVec 4
  | .add => 0 | .min => 1 | .max => 2 | .minn => 3 | .maxn => 4 | .and => 5 | .or => 6 | .xor => 7 | .swap => 8

def AmoOp.ofCode (c : BitVec 4) : AmoOp :=
  match c.toNat with
  | 0 => .add | 1 => .min | 2 => .max | 3 => .minn | 4 => .maxn | 5 => .and | 6 => .or | 7 => .xor | _ => .swap

def AmoOrd.code : AmoOrd → BitVec 2
  | .none => 0 | .acq => 1 | .rel => 2 | .acqrel => 3

def AmoOrd.ofCode (c : BitVec 2) : AmoOrd :=
  match c.toNat with
  | 0 => .none | 1 => .acq | 2 => .rel | _ => .acqrel

def Cond.fn : Cond → BitVec 3
  | .eq => 0 | .ne => 1 | .lt => 2 | .ge => 3 | .ltn => 4 | .gen => 5

def Cond.ofFn (f : BitVec 3) : Cond :=
  match f.toNat with
  | 0 => .eq | 1 => .ne | 2 => .lt | 3 => .ge | 4 => .ltn | _ => .gen

def FlagSt.fn : FlagSt → BitVec 3
  | .busy => 0 | .done => 1 | .faulted => 2

def FlagSt.ofFn (f : BitVec 3) : FlagSt :=
  match f.toNat with
  | 0 => .busy | 1 => .done | _ => .faulted

/-- x10 of bflag (R157). -/
def FlagSel.x10 : FlagSel → BitVec 10
  | .cc _ => 0
  | .tile t => (4 : BitVec 4) ++ regCode t
  | .acc z => (8 : BitVec 4) ++ regCode z
  | .strm q => (12 : BitVec 4) ++ regCode q

def FlagSel.a : FlagSel → BitVec 6
  | .cc a => regCode a
  | _ => 0

def FlagSel.ofX10 (x : BitVec 10) (a : BitVec 6) : FlagSel :=
  match (x.extractLsb' 8 2).toNat with
  | 0 => .cc (sregOf a)
  | 1 => .tile (sregOf (x.extractLsb' 0 6))
  | 2 => .acc (finOf (x.extractLsb' 0 6))
  | _ => .strm (finOf (x.extractLsb' 0 6))

def VW.fn : VW → BitVec 3
  | .w8 => 0 | .w16 => 1 | .w32 => 2 | .w64 => 3

def VW.ofFn (f : BitVec 3) : VW :=
  match f.toNat with
  | 0 => .w8 | 1 => .w16 | 2 => .w32 | _ => .w64

def PushQ.code : PushQ → BitVec 6
  | .q4 => 36 | .q5 => 37 | .q7 => 39

def PushQ.ofCode (c : BitVec 6) : PushQ := if c == 36 then .q4 else if c == 37 then .q5 else .q7

def DrainFmt.code : DrainFmt → BitVec 2
  | .f32 => 0 | .bf16 => 1 | .f16 => 2

def DrainFmt.ofCode (c : BitVec 2) : DrainFmt :=
  match c.toNat with
  | 0 => .f32 | 1 => .bf16 | _ => .f16

def CinvKind.code : CinvKind → BitVec 2
  | .self => 0 | .cl => 1 | .vdev => 2

def CinvKind.ofCode (c : BitVec 2) : CinvKind :=
  match c.toNat with
  | 0 => .self | 1 => .cl | _ => .vdev

/-! ## Layouts: the encoding tables -/

def mkBase (cls op : Nat) (d a b : BitVec 6) (fn : BitVec 3) : Base := ⟨fn, b, a, d, BitVec.ofNat 6 op, BitVec.ofNat 3 cls⟩

/-- A class-0 op with source b (R147). -/
def layB (op : Nat) (d a : BitVec 6) (y : SrcB) (x : Ext) : Raw :=
  match y with
  | .reg false b => .one (mkBase 0 op d a (regCode b) 0)
  | .reg true b => .ext (mkBase 0 op d a (regCode b) 0) x
  | .imm6 v => .one (mkBase 0 op d a v 1)
  | .imm32 b v => .ext (mkBase 0 op d a b 1) { x with w2 := v }
  | .lit false v => .lit (mkBase 0 op d a 0 0) v
  | .lit true v => .extLit (mkBase 0 op d a 0 0) x v

/-- A class-0 op with no source b: the one-word or the extended form (R147). -/
def layA (op : Nat) (ext : Bool) (d a b : BitVec 6) : Raw :=
  if ext then .ext (mkBase 0 op d a b 0) .zero else .one (mkBase 0 op d a b 0)

/-- A class-1 load or store (R142). -/
def layAddr (op : Nat) (d a : BitVec 6) (fn : BitVec 3) (o : AddrB) : Raw :=
  match o with
  | .reg b => .one (mkBase 1 op d a (regCode b) fn)
  | .lit v => .lit (mkBase 1 op d a 0 fn) v
  | .ext b off => .ext (mkBase 1 op d a (regCode b) fn) { Ext.zero with w2 := off }
  | .extLit v off => .extLit (mkBase 1 op d a 0 fn) { Ext.zero with w2 := off } v

/-- An extended-only op whose source b is a register or the literal (R138). -/
def layRL (cls op : Nat) (d a : BitVec 6) (fn : BitVec 3) (y : RegLit) (x : Ext) : Raw :=
  match y with
  | .reg b => .ext (mkBase cls op d a (regCode b) fn) x
  | .lit v => .extLit (mkBase cls op d a 0 fn) x v

/-- An extended-only op with an offset register or literal and word 2 (R196). -/
def layX (cls op : Nat) (d a : BitVec 6) (o : AddrX) (x : Ext) : Raw :=
  match o with
  | .reg b off => .ext (mkBase cls op d a (regCode b) 0) { x with w2 := off }
  | .lit v off => .extLit (mkBase cls op d a 0 0) { x with w2 := off } v

/-- A one-word op (R141). -/
def lay1 (cls op : Nat) (d a b : BitVec 6) (fn : BitVec 3) : Raw := .one (mkBase cls op d a b fn)

/-- An extended-only op that takes no literal. -/
def lay2 (cls op : Nat) (d a b : BitVec 6) (fn : BitVec 3) (x : Ext) : Raw := .ext (mkBase cls op d a b fn) x

/-- Word 1 and word 2 of a class-3 extended form (R167). -/
def VF.x (f : VF) (c : BitVec 6) (x10 : BitVec 10) (w2 : BitVec 32) : Ext :=
  ⟨x10, c, false, f.sat, false, 0, f.rm.code, f.et.code, f.dt, regCode f.msk |>.extractLsb' 0 3, w2⟩

/-- A class-3 op: base form by fn, or extended (R140). -/
def lay3 (op : Nat) (f : VF) (d a : BitVec 6) (b : VB) (c : BitVec 6) (x10 : BitVec 10) (w2 : BitVec 32) : Raw :=
  let fn := if f.ext then 0 else f.et.baseFn
  match b with
  | .src y => if f.ext then .ext (mkBase 3 op d a y.code fn) (f.x c x10 w2) else .one (mkBase 3 op d a y.code fn)
  | .lit v => if f.ext then .extLit (mkBase 3 op d a 0 fn) (f.x c x10 w2) v else .lit (mkBase 3 op d a 0 fn) v

/-- A class-3 op whose b field holds a plain code. -/
def lay3c (op : Nat) (f : VF) (d a b : BitVec 6) (c : BitVec 6) (x10 : BitVec 10) (w2 : BitVec 32) : Raw :=
  if f.ext then .ext (mkBase 3 op d a b 0) (f.x c x10 w2) else .one (mkBase 3 op d a b f.et.baseFn)

/-- A class-3 op without element type: fn = 0 and et = 0 (R140). -/
def lay3n (op : Nat) (f : VF) (d a b : BitVec 6) : Raw :=
  if f.ext then .ext (mkBase 3 op d a b 0) (f.x 0 0 0) else .one (mkBase 3 op d a b 0)

/-- Word 1 of a class-4 access (R194). -/
def VM.x (m : VM) (c : BitVec 6) (x10 : BitVec 10) : Ext :=
  ⟨x10, c, false, false, m.oe, 0, 0, m.et.code, m.dt, regCode m.msk |>.extractLsb' 0 3, 0⟩

/-- x10 of an access with the .na bit (R194). -/
def VM.na10 (m : VM) : BitVec 10 := (bit m.na).setWidth 10

def fillBits (fill : Bool) (t : TSlot) : BitVec 7 := bit fill ++ regCode t

/-- The encoding of each instruction as fields; event rows and advice forms have none. A field that a form does not use is 0
here, so a nonzero one is refused, as R134 asks of a field that an op does not use: a of jmp and call in label form and of the
bflag kinds tile, acc and strm (DESIGN CHOICE: R134 speaks of ops, not of forms; log 53). A literal source of a vmv to a k
register is refused with every literal in a field a (DESIGN CHOICE: R185 names its value, R138 and R167 admit none there;
log 53). -/
def layout : Instr → Option Raw
  | .add d a y => some (layB 1 (regCode d) (regCode a) y .zero)
  | .sub d a y => some (layB 2 (regCode d) (regCode a) y .zero)
  | .mul d a y => some (layB 3 (regCode d) (regCode a) y .zero)
  | .mulh d a y => some (layB 4 (regCode d) (regCode a) y .zero)
  | .mulhn d a y => some (layB 5 (regCode d) (regCode a) y .zero)
  | .div d a y => some (layB 6 (regCode d) (regCode a) y .zero)
  | .divn d a y => some (layB 7 (regCode d) (regCode a) y .zero)
  | .rem d a y => some (layB 8 (regCode d) (regCode a) y .zero)
  | .remn d a y => some (layB 9 (regCode d) (regCode a) y .zero)
  | .and d a y => some (layB 10 (regCode d) (regCode a) y .zero)
  | .or d a y => some (layB 11 (regCode d) (regCode a) y .zero)
  | .xor d a y => some (layB 12 (regCode d) (regCode a) y .zero)
  | .andn d a y => some (layB 13 (regCode d) (regCode a) y .zero)
  | .orn d a y => some (layB 14 (regCode d) (regCode a) y .zero)
  | .shl d a y => some (layB 15 (regCode d) (regCode a) y .zero)
  | .shr d a y => some (layB 16 (regCode d) (regCode a) y .zero)
  | .sra d a y => some (layB 17 (regCode d) (regCode a) y .zero)
  | .rot d a y => some (layB 18 (regCode d) (regCode a) y .zero)
  | .slt d a y => some (layB 19 (regCode d) (regCode a) y .zero)
  | .sltn d a y => some (layB 20 (regCode d) (regCode a) y .zero)
  | .seq d a y => some (layB 21 (regCode d) (regCode a) y .zero)
  | .min d a y => some (layB 22 (regCode d) (regCode a) y .zero)
  | .max d a y => some (layB 23 (regCode d) (regCode a) y .zero)
  | .minn d a y => some (layB 24 (regCode d) (regCode a) y .zero)
  | .maxn d a y => some (layB 25 (regCode d) (regCode a) y .zero)
  | .clz ext d a => some (layA 26 ext (regCode d) (regCode a) 0)
  | .ctz ext d a => some (layA 27 ext (regCode d) (regCode a) 0)
  | .popc ext d a => some (layA 28 ext (regCode d) (regCode a) 0)
  | .sxt ext d a w => some (layA 29 ext (regCode d) (regCode a) (regCode w))
  | .zxt ext d a w => some (layA 30 ext (regCode d) (regCode a) (regCode w))
  | .li d y => some (layB 31 (regCode d) 0 y .zero)
  | .mov ext d a => some (layA 32 ext (regCode d) (regCode a) 0)
  | .sel d a c y => some (layB 33 (regCode d) (regCode a) y { Ext.zero with c := regCode c })
  | .lea d a y => some (layB 34 (regCode d) (regCode a) y .zero)
  | .leaPc d off => some (lay2 0 34 (regCode d) 0 0 2 { Ext.zero with w2 := off })
  | .ld w d a o => some (layAddr 1 (regCode d) (regCode a) w.fn o)
  | .st w d a o => some (layAddr 2 (regCode d) (regCode a) w.fn o)
  | .ldl w d a o => some (layAddr 3 (regCode d) (regCode a) w.fn o)
  | .stl w d a o => some (layAddr 4 (regCode d) (regCode a) w.fn o)
  | .amo op ord w64 sc d a b off => some (lay2 1 5 (regCode d) (regCode a) (regCode b) 0
      { Ext.zero with x10 := (0 : BitVec 3) ++ bit w64 ++ ord.code ++ op.code, sc := sc.code, w2 := off })
  | .amoCas ord w64 sc d a b c off => some (lay2 1 6 (regCode d) (regCode a) (regCode b) 0
      { Ext.zero with x10 := (0 : BitVec 3) ++ bit w64 ++ ord.code ++ (0 : BitVec 4), c := regCode c, sc := sc.code, w2 := off })
  | .semtas j => some (lay1 1 8 0 0 (regCode j) 0)
  | .semtry d j => some (lay1 1 9 (regCode d) 0 (regCode j) 0)
  | .semset j => some (lay1 1 10 0 0 (regCode j) 0)
  | .semclr j => some (lay1 1 11 0 0 (regCode j) 0)
  | .cdrd d j => some (lay1 1 12 (regCode d) 0 (regCode j) 0)
  | .cdwr j a => some (lay1 1 13 0 (regCode a) (regCode j) 0)
  | .cdadd d j a => some (lay1 1 14 (regCode d) (regCode a) (regCode j) 0)
  | .bcc c a y off => some (layRL 2 1 0 (regCode a) c.fn y { Ext.zero with w2 := off })
  | .jmpReg a => some (lay1 2 2 0 (regCode a) 0 1)
  | .jmpOff off => some (lay2 2 2 0 0 0 0 { Ext.zero with w2 := off })
  | .callReg d a => some (lay1 2 3 (regCode d) (regCode a) 0 1)
  | .callOff d off => some (lay2 2 3 (regCode d) 0 0 0 { Ext.zero with w2 := off })
  | .ret a => some (lay1 2 4 0 (regCode a) 0 0)
  | .bq z off => some (lay2 2 5 0 0 0 ((bit z).setWidth 3) { Ext.zero with w2 := off })
  | .bflag st sel off => some (lay2 2 6 0 sel.a 0 st.fn { Ext.zero with x10 := sel.x10, w2 := off })
  | .setvl w d a cap live => some (layRL 2 7 (regCode d) (regCode a) w.fn cap { Ext.zero with w2 := live })
  | .setvlTeam w d a cd cap live =>
    some (layRL 2 8 (regCode d) (regCode a) w.fn cap { Ext.zero with c := regCode cd, w2 := live })
  | .cairn n => some (lay1 2 9 (n.extractLsb' 0 1 ++ (0 : BitVec 5)) (n.extractLsb' 1 6) (n.extractLsb' 7 6) (n.extractLsb' 13 3))
  | .qpush q y =>
    match y with
    | .reg b => some (lay1 2 10 q.code 0 (regCode b) 0)
    | .imm32 b v => some (lay2 2 10 q.code 0 b 0 { Ext.zero with w2 := v })
    | .lit v => some (.lit (mkBase 2 10 q.code 0 0 0) v)
  | .qpop d => some (lay1 2 11 (regCode d) 38 0 0)
  | .launch d a => some (lay1 2 12 (regCode d) (regCode a) 0 0)
  | .trap n => some (lay1 2 13 0 0 n 0)
  | .eret => some (lay1 2 14 0 0 0 0)
  | .yield => some (lay1 2 15 0 0 0 0)
  | .sysrd d r => some (lay1 2 16 (regCode d) (r.extractLsb' 0 6) (r.extractLsb' 6 6) 0)
  | .syswr d r => some (lay1 2 17 (regCode d) (r.extractLsb' 0 6) (r.extractLsb' 6 6) 0)
  | .tstamp d => some (lay1 2 18 (regCode d) 0 0 0)
  | .rdcycle d => some (lay1 2 19 (regCode d) 0 0 0)
  | .pgrefInc d a => some (lay1 2 20 (regCode d) (regCode a) 0 0)
  | .pgrefDec d a => some (lay1 2 20 (regCode d) (regCode a) 0 1)
  | .pgrefRd d a => some (lay1 2 20 (regCode d) (regCode a) 0 2)
  | .tlbinvPage a => some (lay1 2 21 0 (regCode a) 0 0)
  | .tlbinvAll => some (lay1 2 21 0 0 0 1)
  | .wait a => some (lay1 2 22 0 (regCode a) 0 0)
  | .halt => some (lay1 2 23 0 0 0 0)
  | .nop => some (lay1 2 24 0 0 0 0)
  | .vadd f d a b => some (lay3 1 f (regCode d) a.code b 0 0 0)
  | .vsub f d a b => some (lay3 2 f (regCode d) a.code b 0 0 0)
  | .vmul f d a b => some (lay3 3 f (regCode d) a.code b 0 0 0)
  | .vmulh f d a b => some (lay3 4 f (regCode d) a.code b 0 0 0)
  | .vfma f d a b c w2 => some (lay3 5 f (regCode d) a.code b c.code 0 w2)
  | .vfms f d a b c w2 => some (lay3 6 f (regCode d) a.code b c.code 0 w2)
  | .vfnma f d a b c w2 => some (lay3 7 f (regCode d) a.code b c.code 0 w2)
  | .vdiv f d a b => some (lay3 8 f (regCode d) a.code b 0 0 0)
  | .vsqrt f d a => some (lay3c 9 f (regCode d) a.code 0 0 0 0)
  | .vrcp f d a => some (lay3c 10 f (regCode d) a.code 0 0 0 0)
  | .vrsqrt f d a => some (lay3c 11 f (regCode d) a.code 0 0 0 0)
  | .vexp2 f d a => some (lay3c 12 f (regCode d) a.code 0 0 0 0)
  | .vlog2 f d a => some (lay3c 13 f (regCode d) a.code 0 0 0 0)
  | .vmin f d a b => some (lay3 14 f (regCode d) a.code b 0 0 0)
  | .vmax f d a b => some (lay3 15 f (regCode d) a.code b 0 0 0)
  | .vabs f d a => some (lay3c 16 f (regCode d) a.code 0 0 0 0)
  | .vneg f d a => some (lay3c 17 f (regCode d) a.code 0 0 0 0)
  | .vand f d a b => some (lay3 18 f (regCode d) a.code b 0 0 0)
  | .vor f d a b => some (lay3 19 f (regCode d) a.code b 0 0 0)
  | .vxor f d a b => some (lay3 20 f (regCode d) a.code b 0 0 0)
  | .vnot f d a => some (lay3c 21 f (regCode d) a.code 0 0 0 0)
  | .vshl f d a b => some (lay3 22 f (regCode d) a.code b 0 0 0)
  | .vshr f d a b => some (lay3 23 f (regCode d) a.code b 0 0 0)
  | .vsra f d a b => some (lay3 24 f (regCode d) a.code b 0 0 0)
  | .vclz f d a => some (lay3c 25 f (regCode d) a.code 0 0 0 0)
  | .vpopc f d a => some (lay3c 26 f (regCode d) a.code 0 0 0 0)
  | .vcmp f d a b cond => some (lay3 27 f (regCode d) a.code b 0 ((0 : BitVec 6) ++ cond) 0)
  | .vclass f d a set => some (lay3c 28 f (regCode d) a.code 0 0 ((0 : BitVec 1) ++ set) 0)
  | .vsel f d a b mc => some (lay3 29 f (regCode d) a.code b (regCode mc) 0 0)
  | .vcvt f d a c src bs =>
    some (lay3c 30 f (regCode d) a.code 0 (regCode c) ((0 : BitVec 5) ++ bit bs ++ src.code) 0)
  | .vscale f d a b blk => some (lay3 31 f (regCode d) a.code b 0 ((bit blk).setWidth 10) 0)
  | .vpack f d a c => some (lay3c 32 f (regCode d) a.code 0 (regCode c) 0 0)
  | .vredsum f d a wide => some (lay3c 33 f d.code a.code 0 0 ((bit wide).setWidth 10) 0)
  | .vredmax f d a wide => some (lay3c 34 f d.code a.code 0 0 ((bit wide).setWidth 10) 0)
  | .vredmin f d a wide => some (lay3c 35 f d.code a.code 0 0 ((bit wide).setWidth 10) 0)
  | .vperm f d a b => some (lay3 36 f (regCode d) a.code b 0 0 0)
  | .vpermb f d a b c cd => some (lay3c 37 f (regCode d) a.code (regCode b) (regCode c) 0 ((regCode cd).setWidth 32))
  | .vslideup f d a n => some (lay3 38 f (regCode d) a.code n 0 0 0)
  | .vslidedown f d a n => some (lay3 39 f (regCode d) a.code n 0 0 0)
  | .vcompress f d a mc => some (lay3c 40 f (regCode d) a.code 0 (regCode mc) 0 0)
  | .vexpand f d a mc => some (lay3c 41 f (regCode d) a.code 0 (regCode mc) 0 0)
  | .vbcast f d a n => some (lay3 42 f (regCode d) a.code n 0 0 0)
  | .vmv f d a idx => some (lay3c 43 f d.code a.code 0 0 0 idx)
  | .viota f d ma => some (lay3c 44 f (regCode d) (regCode ma) 0 0 0 0)
  | .viotaIdx f d => some (lay3c 44 f (regCode d) 0 0 0 1 0)
  | .vmpop f d ma => some (lay3n 45 f (kCode d) (regCode ma) 0)
  | .vmfirst f d ma => some (lay3n 46 f (kCode d) (regCode ma) 0)
  | .vany f d ma => some (lay3n 47 f (kCode d) (regCode ma) 0)
  | .mand f d ma mb => some (lay3n 48 f (regCode d) (regCode ma) (regCode mb))
  | .mor f d ma mb => some (lay3n 49 f (regCode d) (regCode ma) (regCode mb))
  | .mxor f d ma mb => some (lay3n 50 f (regCode d) (regCode ma) (regCode mb))
  | .mnot f d ma => some (lay3n 51 f (regCode d) (regCode ma) 0)
  | .mset f d n =>
    match n with
    | .src y => some (lay3n 52 f (regCode d) 0 y.code)
    | .lit v => some (if f.ext then .extLit (mkBase 3 52 (regCode d) 0 0 0) (f.x 0 0 0) v
                      else .lit (mkBase 3 52 (regCode d) 0 0 0) v)
  | .vdefer f a b c x cnt =>
    some (lay3c 53 f 0 (regCode a) (regCode b) (regCode c) ((regCode cnt).setWidth 10) ((regCode x).setWidth 32))
  | .vdrain f d a b c cnt viOn vi cap =>
    some (lay3c 54 f (regCode d) (regCode a) (regCode b) (regCode c) ((regCode cnt).setWidth 10)
      ((0 : BitVec 5) ++ cap ++ (0 : BitVec 10) ++ bit viOn ++ (regCode vi).extractLsb' 0 5))
  | .vhash f d a b => some (lay3 55 f (regCode d) a.code b 0 0 0)
  | .vtoq f k => some (lay3n 56 f 0 (kCode k) 0)
  | .vld m d a o => some (layX 4 1 d.code (regCode a) o (m.x 0 m.na10))
  | .vldff m d a o => some (layX 4 1 d.code (regCode a) o { m.x 0 m.na10 with ff := true })
  | .vst m s a o => some (layX 4 2 (regCode s) (regCode a) o (m.x 0 m.na10))
  | .vlds m d a o => some (layX 4 3 d.code (regCode a) o (m.x 0 m.na10))
  | .vsts m s a o => some (layX 4 4 (regCode s) (regCode a) o (m.x 0 m.na10))
  | .vldseg m d a o f => some (layRL 4 5 (regCode d) (regCode a) 0 o { m.x 0 m.na10 with w2 := f.setWidth 32 })
  | .vstseg m s a o f => some (layRL 4 6 (regCode s) (regCode a) 0 o { m.x 0 m.na10 with w2 := f.setWidth 32 })
  | .vldx m d a c => some (lay2 4 7 d.code (regCode a) 0 0 (m.x (regCode c) m.na10))
  | .vstx m s a c => some (lay2 4 8 (regCode s) (regCode a) 0 0 (m.x (regCode c) m.na10))
  | .vldl m d a o c => some (layX 4 9 d.code (regCode a) o (m.x (optVCode c) 0))
  | .vstl m s a o c => some (layX 4 10 (regCode s) (regCode a) o (m.x (optVCode c) 0))
  | .vrred m rm sat sc s a o c =>
    some (layX 4 11 (regCode s) (regCode a) o { m.x (optVCode c) 0 with rm := rm.code, sat := sat, sc := sc.code })
  | .vresume d => some (lay2 4 12 (regCode d) 0 0 0 .zero)
  | .mattach d a => some (lay1 5 1 (regCode d) (regCode a) 0 0)
  | .mattachImm d req => some (lay2 5 1 (regCode d) 0 0 0 { Ext.zero with w2 := req })
  | .mdetach mask => some (lay1 5 2 0 0 mask 0)
  | .mzero z => some (lay1 5 3 (regCode z) 0 0 0)
  | .mpack td ta et p b scaled rows => some (lay2 5 4 (regCode td) (regCode ta) 0 0
      { Ext.zero with et := et.code, x10 := (0 : BitVec 3) ++ bit scaled ++ bit b ++ p, w2 := rows.setWidth 32 })
  | .mmul z ta b pa pb rows row0 =>
    let mk (code : BitVec 6) (sp : Bool) := lay2 5 5 (regCode z) (regCode ta) code 0
      { Ext.zero with x10 := pb ++ pa, w2 := (0 : BitVec 15) ++ bit sp ++ (0 : BitVec 2) ++ row0 ++ (0 : BitVec 1) ++ rows }
    match b with
    | .tile t => some (mk (regCode t) false)
    | .sp r => some (mk (regCode r) true)
  | .mdrain t z => some (lay1 5 6 (regCode t) (regCode z) 0 0)
  | .mdrainExt t z fmt zero rows row0 => some (lay2 5 6 (regCode t) (regCode z) 0 0
      { Ext.zero with w2 := (0 : BitVec 10) ++ row0 ++ (0 : BitVec 1) ++ rows ++ (0 : BitVec 5) ++ bit zero ++ fmt.code })
  | .mdrainf z slot zero => some (lay2 5 7 0 (regCode z) (regCode slot) 0 { Ext.zero with w2 := (bit zero).setWidth 32 })
  | .cpy sc d a b c fill t => some (lay2 6 1 (regCode d) (regCode a) (regCode b) 0
      { Ext.zero with c := regCode c, sc := sc.code, w2 := (fillBits fill t).setWidth 32 })
  | .cpyseg sc d a b c f size perm vi fill t => some (lay2 6 2 (regCode d) (regCode a) (regCode b) 0
      { Ext.zero with c := regCode c, sc := sc.code, x10 := (0 : BitVec 3) ++ bit perm ++ (regCode size).extractLsb' 0 2 ++ f,
                      w2 := (0 : BitVec 19) ++ (regCode vi).extractLsb' 0 5 ++ (0 : BitVec 1) ++ fillBits fill t })
  | .cpyx sc d a b c vi fill t => some (lay2 6 3 (regCode d) (regCode a) (regCode b) 0
      { Ext.zero with c := regCode c, sc := sc.code,
                      w2 := (0 : BitVec 19) ++ (regCode vi).extractLsb' 0 5 ++ (0 : BitVec 1) ++ fillBits fill t })
  | .strm sc q a b w => some (lay2 6 4 (BitVec.ofNat 6 (32 + q.val)) (regCode a) (regCode b) 0
      { Ext.zero with x10 := (regCode w).setWidth 10, sc := sc.code })
  | .strmend q => some (lay1 6 5 (BitVec.ofNat 6 (32 + q.val)) 0 0 0)
  | .tdecl t a b fills => some (lay2 6 6 (regCode t) (regCode a) (regCode b) 0 { Ext.zero with w2 := fills.setWidth 32 })
  | .trel t => some (lay1 6 7 0 (regCode t) 0 0)
  | .tstate d t => some (lay1 6 8 (regCode d) (regCode t) 0 0)
  | .ccwait sc a y => some (layRL 6 9 0 (regCode a) 0 y { Ext.zero with sc := sc.code })
  | .ccadd d a y =>
    match y with
    | .reg b => some (lay1 6 10 (regCode d) (regCode a) (regCode b) 0)
    | .lit v => some (.lit (mkBase 6 10 (regCode d) (regCode a) 0 0) v)
    | .extReg b sc => some (lay2 6 10 (regCode d) (regCode a) (regCode b) 0 { Ext.zero with sc := sc.code })
    | .extLit v sc => some (.extLit (mkBase 6 10 (regCode d) (regCode a) 0 0) { Ext.zero with sc := sc.code } v)
  | .coll d a slot leave sc => some (lay2 6 11 (regCode d) (regCode a) 0 0
      { Ext.zero with x10 := (0 : BitVec 6) ++ bit leave ++ (regCode slot).extractLsb' 0 3, sc := sc.code })
  | .cpyresume d a => some (lay1 6 12 (regCode d) (regCode a) 0 0)
  | .fenceAcq sc => some (lay1 7 1 (sc.code.setWidth 6) 0 0 0)
  | .fenceRel sc => some (lay1 7 1 (sc.code.setWidth 6) 0 0 1)
  | .fenceAcqrel sc => some (lay1 7 1 (sc.code.setWidth 6) 0 0 2)
  | .ustore tag rel sc d a o =>
    some (layX 7 2 (regCode d) (regCode a) o { Ext.zero with x10 := (0 : BitVec 5) ++ bit rel ++ tag.code, sc := sc.code })
  | .vustore m tag rel sc s a o c => some (layX 7 3 (regCode s) (regCode a) o
      { m.x (optVCode c) ((0 : BitVec 5) ++ bit rel ++ tag.code) with sc := sc.code })
  | .vlockacq sc msk dt d a c off => some (lay2 7 4 (regCode d) (regCode a) 0 0
      { (VM.x ⟨.n32, msk, dt, false, false⟩ (regCode c) 0) with sc := sc.code, w2 := off })
  | .vlockrel sc msk dt a c off => some (lay2 7 5 0 (regCode a) 0 0
      { (VM.x ⟨.n32, msk, dt, false, false⟩ (regCode c) 0) with sc := sc.code, w2 := off })
  | .cflush inv sc a len => some (layX 7 6 0 (regCode a) len { Ext.zero with x10 := (bit inv).setWidth 10, sc := sc.code })
  | .cinv kind a len => some (layX 7 7 0 (regCode a) len { Ext.zero with x10 := kind.code.setWidth 10 })
  | _ => none

/-! ## Reading the fields -/

def Raw.d (r : Raw) : SReg := sregOf r.base.d
def Raw.a (r : Raw) : SReg := sregOf r.base.a
def Raw.b (r : Raw) : SReg := sregOf r.base.b
def Raw.c (r : Raw) : SReg := sregOf r.x.c

/-- Source b of class 0 by form (R147). -/
def Raw.srcB (r : Raw) : SrcB :=
  match r with
  | .one w => if w.fn == 0 then .reg false (sregOf w.b) else .imm6 w.b
  | .lit _ v => .lit false v
  | .ext w x => if w.fn == 0 then .reg true (sregOf w.b) else .imm32 w.b x.w2
  | .extLit _ _ v => .lit true v

def Raw.addrB (r : Raw) : AddrB :=
  match r with
  | .one w => .reg (sregOf w.b)
  | .lit _ v => .lit v
  | .ext w x => .ext (sregOf w.b) x.w2
  | .extLit _ x v => .extLit v x.w2

def Raw.regLit (r : Raw) : RegLit := if r.hasLit then .lit r.litV else .reg r.b

def Raw.addrX (r : Raw) : AddrX := if r.hasLit then .lit r.litV r.x.w2 else .reg r.b r.x.w2

def Raw.pushSrc (r : Raw) : PushSrc :=
  match r with
  | .one w => .reg (sregOf w.b)
  | .ext w x => .imm32 w.b x.w2
  | .lit _ v | .extLit _ _ v => .lit v

def Raw.ccSrc (r : Raw) : CcSrc :=
  match r with
  | .one w => .reg (sregOf w.b)
  | .lit _ v => .lit v
  | .ext w x => .extReg (sregOf w.b) (.ofCode x.sc)
  | .extLit _ x v => .extLit v (.ofCode x.sc)

/-- Word-1 fields of class 3, or those that R140 fixes in base form. -/
def Raw.vf (r : Raw) : VF :=
  if r.isExt then ⟨true, .ofCode r.x.et, .ofCode r.x.rm, r.x.sat, r.x.msk.toFin, r.x.dt⟩
  else ⟨false, .ofBaseFn r.base.fn, .dyn, false, 0, false⟩

/-- The same for an op that takes no element type. -/
def Raw.vfNone (r : Raw) : VF :=
  if r.isExt then ⟨true, .ofCode r.x.et, .ofCode r.x.rm, r.x.sat, r.x.msk.toFin, r.x.dt⟩
  else ⟨false, .i8, .dyn, false, 0, false⟩

def Raw.vm (r : Raw) : VM := ⟨.ofCode r.x.et, r.x.msk.toFin, r.x.dt, r.x.oe, r.x.x10.getLsbD 0⟩

/-- The word-1 fields of vldl, vstl, vrred and vustore, whose x10 holds no .na bit. -/
def Raw.vmNoNa (r : Raw) : VM := ⟨.ofCode r.x.et, r.x.msk.toFin, r.x.dt, r.x.oe, false⟩

def Raw.vb (r : Raw) : VB := if r.hasLit then .lit r.litV else .src (.ofCode r.base.b)
def Raw.va (r : Raw) : VSrc := .ofCode r.base.a
def Raw.vc (r : Raw) : VSrc := .ofCode r.x.c
def Raw.vd (r : Raw) : VReg := finOf r.base.d
def Raw.vdst (r : Raw) : VDst := .ofCode r.base.d
def Raw.ldst (r : Raw) : LDst := .ofCode r.base.d
def Raw.md (r : Raw) : MReg := finOf r.base.d
def Raw.ma (r : Raw) : MReg := finOf r.base.a
def Raw.mb (r : Raw) : MReg := finOf r.base.b
def Raw.mc (r : Raw) : MReg := finOf r.x.c
def Raw.kd (r : Raw) : KReg := finOf r.base.d
def Raw.scope (r : Raw) : Scope := .ofCode r.x.sc
def Raw.w2 (r : Raw) : BitVec 32 := r.x.w2
def Raw.num (r : Raw) : BitVec 12 := r.base.b ++ r.base.a

def candidate0 (r : Raw) : Option Instr :=
  match r.base.op.toNat with
  | 1 => some (.add r.d r.a r.srcB)
  | 2 => some (.sub r.d r.a r.srcB)
  | 3 => some (.mul r.d r.a r.srcB)
  | 4 => some (.mulh r.d r.a r.srcB)
  | 5 => some (.mulhn r.d r.a r.srcB)
  | 6 => some (.div r.d r.a r.srcB)
  | 7 => some (.divn r.d r.a r.srcB)
  | 8 => some (.rem r.d r.a r.srcB)
  | 9 => some (.remn r.d r.a r.srcB)
  | 10 => some (.and r.d r.a r.srcB)
  | 11 => some (.or r.d r.a r.srcB)
  | 12 => some (.xor r.d r.a r.srcB)
  | 13 => some (.andn r.d r.a r.srcB)
  | 14 => some (.orn r.d r.a r.srcB)
  | 15 => some (.shl r.d r.a r.srcB)
  | 16 => some (.shr r.d r.a r.srcB)
  | 17 => some (.sra r.d r.a r.srcB)
  | 18 => some (.rot r.d r.a r.srcB)
  | 19 => some (.slt r.d r.a r.srcB)
  | 20 => some (.sltn r.d r.a r.srcB)
  | 21 => some (.seq r.d r.a r.srcB)
  | 22 => some (.min r.d r.a r.srcB)
  | 23 => some (.max r.d r.a r.srcB)
  | 24 => some (.minn r.d r.a r.srcB)
  | 25 => some (.maxn r.d r.a r.srcB)
  | 26 => some (.clz r.isExt r.d r.a)
  | 27 => some (.ctz r.isExt r.d r.a)
  | 28 => some (.popc r.isExt r.d r.a)
  | 29 => some (.sxt r.isExt r.d r.a (finOf r.base.b))
  | 30 => some (.zxt r.isExt r.d r.a (finOf r.base.b))
  | 31 => some (.li r.d r.srcB)
  | 32 => some (.mov r.isExt r.d r.a)
  | 33 => some (.sel r.d r.a r.c r.srcB)
  | 34 => if r.base.fn == 2 then some (.leaPc r.d r.w2) else some (.lea r.d r.a r.srcB)
  | _ => none

def candidate1 (r : Raw) : Option Instr :=
  let ord : AmoOrd := .ofCode (r.x.x10.extractLsb' 4 2)
  match r.base.op.toNat with
  | 1 => some (.ld (.ofFn r.base.fn) r.d r.a r.addrB)
  | 2 => some (.st (.ofFn r.base.fn) r.d r.a r.addrB)
  | 3 => some (.ldl (.ofFn r.base.fn) r.d r.a r.addrB)
  | 4 => some (.stl (.ofFn r.base.fn) r.d r.a r.addrB)
  | 5 => some (.amo (.ofCode (r.x.x10.extractLsb' 0 4)) ord (r.x.x10.getLsbD 6) r.scope r.d r.a r.b r.w2)
  | 6 => some (.amoCas ord (r.x.x10.getLsbD 6) r.scope r.d r.a r.b r.c r.w2)
  | 8 => some (.semtas r.b)
  | 9 => some (.semtry r.d r.b)
  | 10 => some (.semset r.b)
  | 11 => some (.semclr r.b)
  | 12 => some (.cdrd r.d (finOf r.base.b))
  | 13 => some (.cdwr (finOf r.base.b) r.a)
  | 14 => some (.cdadd r.d (finOf r.base.b) r.a)
  | _ => none

def candidate2 (r : Raw) : Option Instr :=
  match r.base.op.toNat with
  | 1 => some (.bcc (.ofFn r.base.fn) r.a r.regLit r.w2)
  | 2 => if r.isExt then some (.jmpOff r.w2) else some (.jmpReg r.a)
  | 3 => if r.isExt then some (.callOff r.d r.w2) else some (.callReg r.d r.a)
  | 4 => some (.ret r.a)
  | 5 => some (.bq (r.base.fn.getLsbD 0) r.w2)
  | 6 => some (.bflag (.ofFn r.base.fn) (.ofX10 r.x.x10 r.base.a) r.w2)
  | 7 => some (.setvl (.ofFn r.base.fn) r.d r.a r.regLit r.w2)
  | 8 => some (.setvlTeam (.ofFn r.base.fn) r.d r.a (finOf r.x.c) r.regLit r.w2)
  | 9 => some (.cairn (r.base.fn ++ r.base.b ++ r.base.a ++ r.base.d.extractLsb' 5 1))
  | 10 => some (.qpush (.ofCode r.base.d) r.pushSrc)
  | 11 => some (.qpop r.d)
  | 12 => some (.launch r.d r.a)
  | 13 => some (.trap r.base.b)
  | 14 => some .eret
  | 15 => some .yield
  | 16 => some (.sysrd r.d r.num)
  | 17 => some (.syswr r.d r.num)
  | 18 => some (.tstamp r.d)
  | 19 => some (.rdcycle r.d)
  | 20 =>
    match r.base.fn.toNat with
    | 0 => some (.pgrefInc r.d r.a)
    | 1 => some (.pgrefDec r.d r.a)
    | 2 => some (.pgrefRd r.d r.a)
    | _ => none
  | 21 => if r.base.fn == 0 then some (.tlbinvPage r.a) else some .tlbinvAll
  | 22 => some (.wait r.a)
  | 23 => some .halt
  | 24 => some .nop
  | _ => none

def candidate3 (r : Raw) : Option Instr :=
  match r.base.op.toNat with
  | 1 => some (.vadd r.vf r.vd r.va r.vb)
  | 2 => some (.vsub r.vf r.vd r.va r.vb)
  | 3 => some (.vmul r.vf r.vd r.va r.vb)
  | 4 => some (.vmulh r.vf r.vd r.va r.vb)
  | 5 => some (.vfma r.vf r.vd r.va r.vb r.vc r.w2)
  | 6 => some (.vfms r.vf r.vd r.va r.vb r.vc r.w2)
  | 7 => some (.vfnma r.vf r.vd r.va r.vb r.vc r.w2)
  | 8 => some (.vdiv r.vf r.vd r.va r.vb)
  | 9 => some (.vsqrt r.vf r.vd r.va)
  | 10 => some (.vrcp r.vf r.vd r.va)
  | 11 => some (.vrsqrt r.vf r.vd r.va)
  | 12 => some (.vexp2 r.vf r.vd r.va)
  | 13 => some (.vlog2 r.vf r.vd r.va)
  | 14 => some (.vmin r.vf r.vd r.va r.vb)
  | 15 => some (.vmax r.vf r.vd r.va r.vb)
  | 16 => some (.vabs r.vf r.vd r.va)
  | 17 => some (.vneg r.vf r.vd r.va)
  | 18 => some (.vand r.vf r.vd r.va r.vb)
  | 19 => some (.vor r.vf r.vd r.va r.vb)
  | 20 => some (.vxor r.vf r.vd r.va r.vb)
  | 21 => some (.vnot r.vf r.vd r.va)
  | 22 => some (.vshl r.vf r.vd r.va r.vb)
  | 23 => some (.vshr r.vf r.vd r.va r.vb)
  | 24 => some (.vsra r.vf r.vd r.va r.vb)
  | 25 => some (.vclz r.vf r.vd r.va)
  | 26 => some (.vpopc r.vf r.vd r.va)
  | 27 => some (.vcmp r.vf r.md r.va r.vb (r.x.x10.extractLsb' 0 4))
  | 28 => some (.vclass r.vf r.md r.va (r.x.x10.extractLsb' 0 9))
  | 29 => some (.vsel r.vf r.vd r.va r.vb r.mc)
  | 30 => some (.vcvt r.vf r.vd r.va (finOf r.x.c) (.ofCode (r.x.x10.extractLsb' 0 4)) (r.x.x10.getLsbD 4))
  | 31 => some (.vscale r.vf r.vd r.va r.vb (r.x.x10.getLsbD 0))
  | 32 => some (.vpack r.vf r.vd r.va (finOf r.x.c))
  | 33 => some (.vredsum r.vf r.vdst r.va (r.x.x10.getLsbD 0))
  | 34 => some (.vredmax r.vf r.vdst r.va (r.x.x10.getLsbD 0))
  | 35 => some (.vredmin r.vf r.vdst r.va (r.x.x10.getLsbD 0))
  | 36 => some (.vperm r.vf r.vd r.va r.vb)
  | 37 => some (.vpermb r.vf r.vd r.va (finOf r.base.b) (finOf r.x.c) (finOf (r.w2.extractLsb' 0 6)))
  | 38 => some (.vslideup r.vf r.vd r.va r.vb)
  | 39 => some (.vslidedown r.vf r.vd r.va r.vb)
  | 40 => some (.vcompress r.vf r.vd r.va r.mc)
  | 41 => some (.vexpand r.vf r.vd r.va r.mc)
  | 42 => some (.vbcast r.vf r.vd r.va r.vb)
  | 43 => some (.vmv r.vf r.vdst r.va r.w2)
  | 44 => if r.x.x10.getLsbD 0 then some (.viotaIdx r.vf r.vd) else some (.viota r.vf r.vd r.ma)
  | 45 => some (.vmpop r.vfNone r.kd r.ma)
  | 46 => some (.vmfirst r.vfNone r.kd r.ma)
  | 47 => some (.vany r.vfNone r.kd r.ma)
  | 48 => some (.mand r.vfNone r.md r.ma r.mb)
  | 49 => some (.mor r.vfNone r.md r.ma r.mb)
  | 50 => some (.mxor r.vfNone r.md r.ma r.mb)
  | 51 => some (.mnot r.vfNone r.md r.ma)
  | 52 => some (.mset r.vfNone r.md r.vb)
  | 53 => some (.vdefer r.vf (finOf r.base.a) (finOf r.base.b) (finOf r.x.c) (finOf (r.w2.extractLsb' 0 6))
      (finOf (r.x.x10.extractLsb' 0 6)))
  | 54 => some (.vdrain r.vf r.vd (finOf r.base.a) (finOf r.base.b) (finOf r.x.c) (finOf (r.x.x10.extractLsb' 0 6))
      (r.w2.getLsbD 5) (finOf ((r.w2.extractLsb' 0 5).setWidth 6)) (r.w2.extractLsb' 16 11))
  | 55 => some (.vhash r.vf r.vd r.va r.vb)
  | 56 => some (.vtoq r.vfNone (finOf r.base.a))
  | _ => none

def candidate4 (r : Raw) : Option Instr :=
  match r.base.op.toNat with
  | 1 => if r.x.ff then some (.vldff r.vm r.ldst r.a r.addrX) else some (.vld r.vm r.ldst r.a r.addrX)
  | 2 => some (.vst r.vm r.vd r.a r.addrX)
  | 3 => some (.vlds r.vm r.ldst r.a r.addrX)
  | 4 => some (.vsts r.vm r.vd r.a r.addrX)
  | 5 => some (.vldseg r.vm r.vd r.a r.regLit (r.w2.extractLsb' 0 4))
  | 6 => some (.vstseg r.vm r.vd r.a r.regLit (r.w2.extractLsb' 0 4))
  | 7 => some (.vldx r.vm r.ldst r.a (finOf r.x.c))
  | 8 => some (.vstx r.vm r.vd r.a (finOf r.x.c))
  | 9 => some (.vldl r.vmNoNa r.ldst r.a r.addrX (optVOf r.x.c))
  | 10 => some (.vstl r.vmNoNa r.vd r.a r.addrX (optVOf r.x.c))
  | 11 => some (.vrred r.vmNoNa (.ofCode r.x.rm) r.x.sat r.scope r.vd r.a r.addrX (optVOf r.x.c))
  | 12 => some (.vresume r.d)
  | _ => none

def candidate5 (r : Raw) : Option Instr :=
  match r.base.op.toNat with
  | 1 => if r.isExt then some (.mattachImm r.d r.w2) else some (.mattach r.d r.a)
  | 2 => some (.mdetach r.base.b)
  | 3 => some (.mzero (finOf r.base.d))
  | 4 => some (.mpack r.d r.a (.ofCode r.x.et) (r.x.x10.extractLsb' 0 5) (r.x.x10.getLsbD 5) (r.x.x10.getLsbD 6)
      (r.w2.extractLsb' 0 7))
  | 5 => some (.mmul (finOf r.base.d) r.a (if r.w2.getLsbD 16 then .sp r.b else .tile r.b) (r.x.x10.extractLsb' 0 5)
      (r.x.x10.extractLsb' 5 5) (r.w2.extractLsb' 0 7) (r.w2.extractLsb' 8 6))
  | 6 =>
    if r.isExt then
      some (.mdrainExt r.d (finOf r.base.a) (.ofCode (r.w2.extractLsb' 0 2)) (r.w2.getLsbD 2) (r.w2.extractLsb' 8 7)
        (r.w2.extractLsb' 16 6))
    else some (.mdrain r.d (finOf r.base.a))
  | 7 => some (.mdrainf (finOf r.base.a) (finOf r.base.b) (r.w2.getLsbD 0))
  | _ => none

def candidate6 (r : Raw) : Option Instr :=
  let t : TSlot := sregOf (r.w2.extractLsb' 0 6)
  let fill := r.w2.getLsbD 6
  let vi : VReg := finOf ((r.w2.extractLsb' 8 5).setWidth 6)
  match r.base.op.toNat with
  | 1 => some (.cpy r.scope r.d r.a r.b r.c fill t)
  | 2 => some (.cpyseg r.scope r.d r.a r.b r.c (r.x.x10.extractLsb' 0 4) (finOf ((r.x.x10.extractLsb' 4 2).setWidth 6))
      (r.x.x10.getLsbD 6) vi fill t)
  | 3 => some (.cpyx r.scope r.d r.a r.b r.c vi fill t)
  | 4 => some (.strm r.scope (finOf r.base.d) r.a r.b (finOf (r.x.x10.extractLsb' 0 6)))
  | 5 => some (.strmend (finOf r.base.d))
  | 6 => some (.tdecl r.d r.a r.b (r.w2.extractLsb' 0 16))
  | 7 => some (.trel r.a)
  | 8 => some (.tstate r.d r.a)
  | 9 => some (.ccwait r.scope r.a r.regLit)
  | 10 => some (.ccadd r.d r.a r.ccSrc)
  | 11 => some (.coll r.d r.a (finOf ((r.x.x10.extractLsb' 0 3).setWidth 6)) (r.x.x10.getLsbD 3) r.scope)
  | 12 => some (.cpyresume r.d r.a)
  | _ => none

def candidate7 (r : Raw) : Option Instr :=
  let rel := r.x.x10.getLsbD 4
  match r.base.op.toNat with
  | 1 =>
    let sc : Scope := .ofCode (r.base.d.extractLsb' 0 2)
    match r.base.fn.toNat with
    | 0 => some (.fenceAcq sc)
    | 1 => some (.fenceRel sc)
    | 2 => some (.fenceAcqrel sc)
    | _ => none
  | 2 => (UTag.ofCode (r.x.x10.extractLsb' 0 4)).map fun tag => .ustore tag rel r.scope r.d r.a r.addrX
  | 3 => (UTag.ofCode (r.x.x10.extractLsb' 0 4)).map fun tag =>
      .vustore r.vmNoNa tag rel r.scope r.vd r.a r.addrX (optVOf r.x.c)
  | 4 => some (.vlockacq r.scope r.x.msk.toFin r.x.dt r.md r.a (finOf r.x.c) r.w2)
  | 5 => some (.vlockrel r.scope r.x.msk.toFin r.x.dt r.a (finOf r.x.c) r.w2)
  | 6 => some (.cflush (r.x.x10.getLsbD 0) r.scope r.a r.addrX)
  | 7 => some (.cinv (.ofCode (r.x.x10.extractLsb' 0 2)) r.a r.addrX)
  | _ => none

/-- The instruction that the class and op name, its fields read without their limits (R141). -/
def candidate (r : Raw) : Option Instr :=
  match r.base.cls.toNat with
  | 0 => candidate0 r
  | 1 => candidate1 r
  | 2 => candidate2 r
  | 3 => candidate3 r
  | 4 => candidate4 r
  | 5 => candidate5 r
  | 6 => candidate6 r
  | _ => candidate7 r

/-- Every encoding that is not an instruction is reserved (R145): the candidate must be well formed and account for
every bit read. -/
def decodeRaw (r : Raw) : Option Instr :=
  match candidate r with
  | some i => if i.wf && layout i == some r then some i else none
  | none => none

/-- Why bytes are no instruction: words are missing, or the encoding is reserved (R145). -/
inductive DecodeErr where
  | truncated
  | reserved
  deriving DecidableEq, Repr

/-- The instruction that the words begin with, and its length in words. -/
def decodeWords (ws : List IWord) : Except DecodeErr (Instr × Nat) :=
  match Raw.ofWords ws with
  | none => .error .truncated
  | some r =>
    match decodeRaw r with
    | some i => .ok (i, r.words.length)
    | none => .error .reserved

/-- The decoder: total on any bytes. -/
def decode (bs : List Byte) : Except DecodeErr (Instr × Nat) := decodeWords (wordsOfBytes bs)

/-! ## The encoder -/

/-- The words of a well-formed instruction of the semantic space. -/
def encodeWords (i : Instr) : List IWord :=
  match layout i with
  | some r => r.words
  | none => []

/-- The bytes of a well-formed instruction of the semantic space, as memory holds them (R4, R133). -/
def encode (i : Instr) : List Byte := (encodeWords i).flatMap wordBytes

/-- The instruction has an encoding in the semantic space. -/
def Instr.semantic (i : Instr) : Bool := (layout i).isSome

/-! ## The advice space (R144) -/

/-- The fields of an advice word. -/
structure AWord where
  imm : BitVec 16
  hb : BitVec 4
  ha : BitVec 4
  hd : BitVec 4
  op : BitVec 4
  deriving DecidableEq, Repr

def AWord.word (w : AWord) : IWord := w.imm ++ w.hb ++ w.ha ++ w.hd ++ w.op

def AWord.ofWord (x : IWord) : AWord :=
  ⟨x.extractLsb' 16 16, x.extractLsb' 12 4, x.extractLsb' 8 4, x.extractLsb' 4 4, x.extractLsb' 0 4⟩

def hCode (r : HReg) : BitVec 4 := BitVec.ofNat 4 r.val

def Ins.code : Ins → BitVec 2
  | .prot => 0 | .mid => 1 | .evict => 2

def Ins.ofCode (c : BitVec 2) : Ins :=
  match c.toNat with
  | 0 => .prot | 1 => .mid | _ => .evict

def ACond.code : ACond → BitVec 4
  | .eq => 0 | .ne => 1 | .ltn => 2 | .gen => 3

def ACond.ofCode (c : BitVec 4) : ACond :=
  match c.toNat with
  | 0 => .eq | 1 => .ne | 2 => .ltn | _ => .gen

/-- imm16 of a.jmp and a.b: bits 12..2 of the target (R144). -/
def jmpImm (t : BitVec 11) : BitVec 16 := (0 : BitVec 3) ++ t ++ (0 : BitVec 2)

/-- The fields of each advice form (R144, R244). -/
def adviceLayout : Instr → Option AWord
  | .aStop => some ⟨0, 0, 0, 0, 0⟩
  | .aPf cc pos ha hb => some ⟨(0 : BitVec 12) ++ pos.code ++ (0 : BitVec 1) ++ bit cc, hCode hb, hCode ha, 0, 1⟩
  | .aPft ha hb => some ⟨0, hCode hb, hCode ha, 0, 2⟩
  | .aIns pos ha hb => some ⟨(0 : BitVec 12) ++ pos.code ++ (0 : BitVec 2), hCode hb, hCode ha, 0, 3⟩
  | .aCpri tile ha pri => some ⟨(0 : BitVec 11) ++ bit tile ++ pri, 0, hCode ha, 0, 4⟩
  | .aMord co codes => some ⟨(0 : BitVec 7) ++ bit co ++ codes, 0, 0, 0, 5⟩
  | .aLdidx hd ha w => some ⟨(regCode w).setWidth 16, 0, hCode ha, hCode hd, 6⟩
  | .aAwait c s => some ⟨c, s.extractLsb' 4 4, s.extractLsb' 0 4, 0, 7⟩
  | .aJmp t => some ⟨jmpImm t, 0, 0, 0, 8⟩
  | .aB c ha hb t => some ⟨jmpImm t, hCode hb, hCode ha, c.code, 9⟩
  | .aLi hd imm p => some ⟨imm, BitVec.ofNat 4 p.val, 0, hCode hd, 10⟩
  | .aAdd hd ha hb imm => some ⟨imm, hCode hb, hCode ha, hCode hd, 11⟩
  | .aMul hd ha hb => some ⟨0, hCode hb, hCode ha, hCode hd, 12⟩
  | .aAnd hd ha hb => some ⟨0, hCode hb, hCode ha, hCode hd, 13⟩
  | .aShr hd ha n => some ⟨n.setWidth 16, 0, hCode ha, hCode hd, 14⟩
  | .aRdstrip hd => some ⟨0, 0, 0, hCode hd, 15⟩
  | _ => none

def adviceCandidate (w : AWord) : Instr :=
  let hd : HReg := w.hd.toFin
  let ha : HReg := w.ha.toFin
  let hb : HReg := w.hb.toFin
  match w.op.toNat with
  | 0 => .aStop
  | 1 => .aPf (w.imm.getLsbD 0) (.ofCode (w.imm.extractLsb' 2 2)) ha hb
  | 2 => .aPft ha hb
  | 3 => .aIns (.ofCode (w.imm.extractLsb' 2 2)) ha hb
  | 4 => .aCpri (w.imm.getLsbD 4) ha (w.imm.extractLsb' 0 4)
  | 5 => .aMord (w.imm.getLsbD 8) (w.imm.extractLsb' 0 8)
  | 6 => .aLdidx hd ha (w.imm.extractLsb' 0 2).toFin
  | 7 => .aAwait w.imm (w.hb ++ w.ha)
  | 8 => .aJmp (w.imm.extractLsb' 2 11)
  | 9 => .aB (.ofCode w.hd) ha hb (w.imm.extractLsb' 2 11)
  | 10 => .aLi hd w.imm (w.hb.extractLsb' 0 2).toFin
  | 11 => .aAdd hd ha hb w.imm
  | 12 => .aMul hd ha hb
  | 13 => .aAnd hd ha hb
  | 14 => .aShr hd ha (w.imm.extractLsb' 0 6)
  | _ => .aRdstrip hd

/-- An advice word, or none where R146 and R367 make it no advice instruction. -/
def decodeAdvice (x : IWord) : Option Instr :=
  let i := adviceCandidate (.ofWord x)
  if i.wf && adviceLayout i == some (.ofWord x) then some i else none

def encodeAdvice (i : Instr) : Option IWord := (adviceLayout i).map AWord.word

/-! ## The table's words -/

/-- Little-endian bytes of a number. -/
def natBytes : Nat → Nat → List Byte
  | 0, _ => []
  | n + 1, w => BitVec.ofNat 8 w :: natBytes n (w / 256)

/-- The bytes of an instruction given as the table numbers its bits: the first word is bits 31..0 (R133). -/
def tableBytes (nbits w : Nat) : List Byte := natBytes 20 (w % 2 ^ nbits)

/-- The instruction of a row: the semantic space first, and the advice space where that space has none. -/
def decodeTableWord (nbits w : Nat) : Option Instr :=
  match decode (tableBytes nbits w) with
  | .ok (i, _) => some i
  | .error _ => decodeAdvice (BitVec.ofNat 32 (w % 2 ^ nbits))

end Sys2Proof
end

