-- ==== Sys2Proof/Config.lean ====
section
/-! DEFINITION. The values the spec leaves open, as constants without a body: nothing in Lean can evaluate them, so a
claim holds whatever they are. Each is named in a log entry. -/

namespace Sys2Proof.Config

open Sys2Proof

/-- A byte that the spec calls undefined: core-store bytes outside keep ranges after a resumption (R45), and the bytes
of a save area (R45, R314 give no layout). Its arguments are the number of the event and the address (log 15). -/
opaque freeByte : Nat → Nat → Byte

/-- Which of several values that one location may end with, or which order the spec leaves open, does end there: an
element number or a bit, by the free counter of the state (R80, R102; log 2). -/
opaque freeBit : Nat → Bool

/-- Digests of SHA-384 over a list of bytes (R293, R294); the standard is not in the spec (log 20). -/
opaque sha384 : List Byte → BitVec 384

/-- ECDSA P-384 verification of a boot image under the key of its stage (R293; log 20). -/
opaque imageVerified : Nat → List Byte → Bool

/-- The security version an image carries, and the version fused in the part (R293; log 20). -/
opaque imageVersion : List Byte → Nat
opaque fusedVersion : Nat

/-- The answers of SPDM and MCTP messages, whose formats are in their own standards (R294, R298; log 20). -/
opaque certificateChain : List Byte
opaque spdmSignature : List Byte → List Byte
opaque managementAnswer : Nat → List Byte

/-- What the sideband reports when locked-clock mode is left for power or heat (R395; log 20). -/
opaque clockExitReport : List Byte

/-- The frame of 64 KiB in which firmware keeps the part's capability list (R277 gives it no address; log 40). -/
opaque capFrame : Nat

/-- AES-256-GCM of a dump's bytes under a key and a nonce (R318; log 20). -/
opaque gcmCipher : List Byte → List Byte → List Byte → List Byte → List Byte
opaque gcmTag : List Byte → List Byte → List Byte → List Byte → List Byte

/-- The bytes of a core's registers, queues and tile table as a dump item holds them: no layout is given (R318; log 15).
Its arguments are the number of the event and the core. -/
opaque dumpRegisterBytes : Nat → Nat → List Byte

/-- The piece of a dump's stream at which a write to its destination fails, where a failure is reported (R397; log 69). Its argument
is the number of the event. -/
opaque failedPiece : Nat → Nat

/-- SECDED check bits observed (R382; the code is not in the spec; log 20). -/
opaque syndrome : Nat → BitVec 64

/-- The CXL ports in use and the bytes of memory that boot stage 2 finds behind them (R292). -/
opaque cxlPorts : BitVec 8
opaque cxlFound : Nat

/-- The lanes that boot stage 2 finds live on a core (R300). -/
opaque trimmedLanes : Nat → BitVec 32

end Sys2Proof.Config
end

