-- ==== Sys2Proof/Machine/State.lean ====
section
/-! DEFINITION. The state of the part as plain data: every register, queue, table and memory that the spec names, the
reasons a step stops, and the state right after reset. A docstring names the rule that gives a field. -/

namespace Sys2Proof.Machine

open Sys2Proof

/-! ## Reasons to stop -/

/-- The machine stops. It never does: the spec gives every instruction and every step an effect, so there is no reason to name. -/
inductive Fault where
  deriving DecidableEq, Repr

/-- No meaning. -/
inductive Refusal where
  /-- An arm of `exec` without a meaning; no arm and no meaning answers with it. Safe. -/
  | notModelled (mnemonic : String)
  deriving DecidableEq, Repr

/-! ## Memory -/

/-- From `lo`, `len` bytes that read, where no write has listed them since: undefined bytes of event number `gen` (R45;
log 15), or zeros (`none`: a range zeroed after it had been undefined). -/
structure FreeRange where
  lo : Nat
  len : Nat
  gen : Option Nat
  deriving DecidableEq, Repr

/-- Bytes by address, in one canonical form, with the ranges whose unlisted bytes are no plain zeros, newest first. -/
structure Memory where
  cells : List Host.Cell
  free : List FreeRange
  deriving DecidableEq, Repr

/-! ## Parts of a core -/

/-- PRIV.view (R276). -/
inductive View where
  | u | s | m
  deriving DecidableEq, Repr

/-- What a core does: nothing (off or free), runs a virtual core, has executed the halt of its wave and waits for the
group, or has yielded to a pre-emption request and waits for the save (R32, R44, R163). -/
inductive RunState where
  | off | running | done | yielded
  deriving DecidableEq, Repr

/-- What the AP waits on (R353 step 7); `counted` marks are those that a wait takes once. -/
inductive Wait where
  | none
  | q6                                  -- RESYNC counted (R38)
  | push (j : Fin 8)                    -- a full queue
  | fifo (b : Fin 32)                   -- a FIFO bank, full or empty (R75)
  | full                                -- a full vector queue, or VL not settled (R36, R190, R202)
  | halt                                -- earlier work, at halt (R163)
  | sem (j : Fin 64)                    -- queued in semtas (R153)
  | counter (loc : Nat) (isLocal : Bool) (target : Word) (released : Bool)   -- ccwait (R388)
  | clocks (left : Nat)                 -- wait (R162)
  | tile (t : TSlot) (edges : Nat)      -- a filling tile (R76)
  | behind                              -- what stands in the vector queues (R81, R209, R347)
  | other                               -- an engine limit, a fence, a closed frame
  deriving DecidableEq, Repr

/-- An entry of q0 to q3: one vector, zero behind its data, its length in elements, poison by sector of 32 bytes, and its place in
program order; 0 for an entry a stream pushed (R37, R42, R200, R230). -/
structure QEntry where
  data : Vec
  len : Nat
  poison : BitVec 128
  seq : Nat
  deriving DecidableEq, Repr

/-- What an instruction of the EP or of the vector memory queue takes from the AP at issue: its place in program order,
its address, VL, VCTL.rm, SEED, STRIP and team mark at that place, and the scalar values of its fields a and b (R36,
R55, R171); and whether it issued in the S view (R348). -/
structure Capture where
  seq : Nat
  pc : Word
  vl : Nat
  rm : BitVec 3
  seed : Word
  stripBase : Word
  stripNext : Word
  team : Bool
  aVal : Word
  bVal : Word
  next : Word
  sup : Bool
  deriving DecidableEq, Repr

/-- What stands in the EP's order: an instruction of the vector instruction queue; the place of a class-4 instruction
of the vector memory queue, which reads and writes EP registers there; the register writes of a load whose data is held,
each as destination, bits and the bits to write; the place at which a copy reads its index register (R36, R199, R226). -/
inductive EpWork where
  | ins (i : Instr)
  | vm (seq : Nat)
  | writeback (l : List (VReg × Vec × Vec)) (m : Option (MReg × Mask × Mask))
  | idx (seq : Nat) (v : VReg)
  deriving DecidableEq, Repr

structure EpOp where
  work : EpWork
  cap : Capture
  deriving DecidableEq, Repr

/-- The EP registers of a class-4 instruction, read at its place in the EP's order (R199). -/
structure VmRegs where
  data : List Vec
  idx : Vec
  comp : Vec
  mask : Mask
  deriving DecidableEq, Repr

/-- One entry of the vector memory queue (R36, R199): its registers once read, and `partly` at the head that PMASK tells
of (R206). Then `acc` is what a load into a queue has gathered (R200), and `cov` the bytes that a store has covered, as
first bit and length (R372). -/
structure VmOp where
  ins : Instr
  cap : Capture
  partly : Bool
  regs : Option VmRegs
  acc : Vec
  cov : List (Nat × Nat)
  deriving DecidableEq, Repr

/-- An entry of the deferral queue (R47). -/
structure DEntry where
  idx : BitVec 32
  vals : Vector (BitVec 32) 4
  deriving DecidableEq, Repr

/-- States of a tile (R76). -/
inductive TileSt where
  | empty | filling | ready | draining
  deriving DecidableEq, Repr

/-- The stamp record of a tile slot (R315). -/
structure Stamp where
  flags : BitVec 16
  fillStart : Word
  ready : Word
  firstUse : Word
  computeEnd : Word
  drainStart : Word
  opWait : BitVec 32
  deriving DecidableEq, Repr

/-- A tile-table entry (R76, R223). -/
structure Tile where
  st : TileSt
  base : Nat
  len : Nat
  fills : Nat
  stamp : Option Stamp
  deriving DecidableEq, Repr

/-- Why a copy stands still (R384, R386). -/
inductive CopySt where
  | moving
  /-- Stopped by a fault of a kind and level at an address, at a TSTAMP (R343); `taken` once it has been taken at an AP boundary
  (R341). -/
  | stopped (kind : BitVec 8) (level : Nat) (addr : Word) (time : Word) (taken : Bool)
  deriving DecidableEq, Repr

/-- A copy in flight or stopped (R226 to R229): its instruction, its place in program order, destination, source,
shape registers, counter, the sectors already written, and the index register read at its place in EP order. -/
structure CopyOp where
  ins : Instr
  seq : Nat
  pc : Word
  dst : Word
  src : Word
  sh0 : Word
  sh1 : Word
  sh2 : Word
  ctr : Option Word
  tile : Option TSlot
  idx : Option Vec
  done : Nat
  st : CopySt
  deriving DecidableEq, Repr

/-- A stream bound to a queue (R230, R387). -/
structure Stream where
  base : Word
  stride : Word
  bytes : Nat
  width : Nat
  count : Nat
  next : Nat
  fault : Option (BitVec 8 × Word)
  deriving DecidableEq, Repr

/-- What one load of a B holds: up to 8 planes of 256 columns, 64 KiB, with the 2 KiB of their scales behind (R18); and whether
poison was read for it (R371). -/
structure BPart where
  data : BitVec 540672
  bad : Bool
  deriving DecidableEq, Repr

/-- A pending operation of the matrix unit, in issue order (R214 to R222): the scratchpad place of its B, the round of a
mdrainf, the edges of its die at its issue, and, of a pass, the loads of its B that it has done and the planes of rows done in the
load that follows (R219), the row-lane demand at its issue or its start (R211), and the loads that the array has applied to it. -/
structure MatOp where
  ins : Instr
  seq : Nat
  bKey : Nat
  round : Nat
  time : Nat
  loads : Nat
  work : Nat
  want : Nat
  bs : List BPart
  st : CopySt
  deriving DecidableEq, Repr

/-- A joined collective slot (R221). -/
structure CollSlot where
  id : Word
  nranks : Nat
  rank : Nat
  op : Nat
  result : Word
  counter : Word
  scope : Scope
  round : Nat
  inFlight : Nat
  refused : Bool
  deriving DecidableEq, Repr

/-- States of the advice sequencer (R118). -/
inductive AdvSt where
  | off | loading | running | awaiting | seeking | stopped
  deriving DecidableEq, Repr

/-- An advice request in flight (R113): a line to be read, with its action, its insertion position, the edges since its issue
and the virtual device that issued it. -/
structure AdvReq where
  act : Nat
  line : Nat
  pos : Ins
  age : Nat
  vdid : BitVec 6
  deriving DecidableEq, Repr

/-- An a.ldidx whose value has not returned: destination, none once its sequencer has ended, address, bytes, edges since its
issue and virtual device (R249). -/
structure AdvRead where
  d : Option HReg
  addr : Word
  n : Nat
  age : Nat
  vdid : BitVec 6
  deriving DecidableEq, Repr

/-- The advice sequencer (R109 to R119, R244 to R250). -/
structure Advice where
  st : AdvSt
  cause : BitVec 3
  cur : BitVec 16
  pc : BitVec 13
  h : Vector Word 16
  buffer : List Byte
  fifo : List (BitVec 16 × Word)
  snapshot : Word
  awaitC : BitVec 16
  awaitS : BitVec 8
  /-- The miss flag that a.ldidx sets (R111). -/
  miss : Bool
  ldidx : Option AdvRead
  /-- Requests in flight, oldest first; actions issued; the actions in flight that have been counted as dropped (R112, R113, R245). -/
  reqs : List AdvReq
  acts : Nat
  skipped : List Nat
  /-- Insertion ranges, newest first: position, address, length (R246). -/
  ins : List (Ins × Word × Nat)
  /-- Copy priorities, newest first: tile or counter, key, priority (R247). -/
  cpri : List (Bool × Word × BitVec 4)
  /-- The order list, its coalescing mark, and whether an mmul was pending under it (R248). -/
  mord : Option (BitVec 8 × Bool × Bool)
  /-- The cairn of an overflow, to be taken at the next boundary (R117). -/
  overflow : Bool
  /-- A failed load or a stop by the supervisor, which holds for the group (R109). -/
  barred : Bool
  aentry : Word
  ctab : Word
  /-- The model's own: the sequencer issues before the AP issues again (log 1). -/
  due : Bool
  deriving DecidableEq, Repr

/-- ADVCNT (R119). -/
structure AdvCnt where
  drop : BitVec 16
  realign : BitVec 16
  lag : BitVec 16
  miss : BitVec 16
  deriving DecidableEq, Repr

/-- The AP state that reverse stepping shows (R313). -/
structure ApSnap where
  pc : Word
  s : Vector Word 64
  stripBase : Word
  stripNext : Word
  deriving DecidableEq, Repr

/-- DBCTL.state (R308). -/
inductive DbgSt where
  | running | stopped | stepping
  deriving DecidableEq, Repr

/-- The debug block of a core (R308, R314, R392) and its record mode (R312, R313). -/
structure Debug where
  st : DbgSt
  cause : BitVec 4
  bp : BitVec 3
  recMode : Bool
  bpa : Vector Word 4
  wpa : Vector Word 2
  wpl : Vector Word 2
  recbase : Word
  terrLane : BitVec 5
  terrCount : BitVec 32
  /-- AP states before each AP instruction since the older kept checkpoint, oldest first. -/
  hist : List ApSnap
  /-- Where in `hist` the newer checkpoint stands. -/
  newer : Nat
  /-- The place shown, while a reversed view is up. -/
  viewAt : Option Nat
  /-- Checkpoint number, AP instructions retired at it, retired now, and log entries of the epoch (R314). -/
  cpSeq : Nat
  cpRetired : Nat
  retired : Nat
  logged : Nat
  /-- The breakpoint just reported lets its instruction issue at the next run or step. -/
  passBp : Bool
  /-- Nanoseconds that a step has stood without issuing (R310). -/
  stepNs : Nat
  deriving DecidableEq, Repr

/-- A line of an instruction cache (R1, R243): its number and the bytes it was filled with. -/
structure ILine where
  line : Nat
  data : BitVec 1024
  deriving DecidableEq, Repr

/-- A cached translation: VDID, level and page base, and the leaf read (R283). -/
structure TlbEntry where
  vdid : BitVec 6
  level : Nat
  base : Nat
  leaf : Word
  leafAddr : Nat
  deriving DecidableEq, Repr

/-- A cached table pointer: VDID, the level of the entry that held it, the base of the range it covers, and the table it
names (R283). -/
structure PtrEntry where
  vdid : BitVec 6
  level : Nat
  base : Nat
  next : Nat
  deriving DecidableEq, Repr

/-- A supervisor entry that has not returned (R347, R348). -/
structure Entry where
  kind : BitVec 8
  ret : Word
  /-- The record was of a vector-partial fault, whose instruction heads the vector memory queue. -/
  vector : Bool
  /-- The wait that the AP stood in when an engine fault was taken, to be taken up again (R346). -/
  wait : Wait
  /-- The faulting address, which the re-issued instruction translates afresh (R287, R348). -/
  page : Option Word
  /-- Nanoseconds since the entry (R348). -/
  ns : Nat
  /-- The place in program order of the queued instruction whose fault holds the vector memory queue: nothing there or behind it
  moves before the return (R206, R341). -/
  stop : Option Nat
  /-- The S bank as the last eret left it (R347). -/
  bank : Vector Word 8
  deriving DecidableEq, Repr

/-- A core (R16). -/
structure Core where
  index : Fin 1024
  run : RunState
  /-- Held since another core of the group faulted or stands in the supervisor (R341). -/
  held : Bool
  /-- Nanoseconds in which a core just held may still finish the instruction it is in (R341). -/
  late : Nat
  pc : Word
  s : Vector Word 64
  sBank : Vector Word 8
  vl : Nat
  stripBase : Word
  stripNext : Word
  rm : BitVec 3
  seed : Word
  resync : Word
  team : Bool
  wait : Wait
  view : View
  entry : Option Entry
  v : Vector Vec 32
  poisonV : BitVec 32
  m : Vector Mask 8
  k : Vector Word 16
  vq : Vector (List QEntry) 4
  q4 : List Word
  q5 : List Word
  q6 : List Word
  q7 : List Bool
  viq : List EpOp
  vmq : List VmOp
  seq : Nat
  /-- Queued reads with a place before this one hold later accesses, since an atomic with an acquire has issued (R81). -/
  acqSeq : Nat
  defer : List DEntry
  pmask : Mask
  tiles : Vector Tile 64
  want : Nat
  acc : BitVec 4
  lanes : Nat
  z : Vector Acc 4
  copies : List CopyOp
  streams : Vector (Option Stream) 4
  mats : List MatOp
  colls : Vector (Option CollSlot) 8
  adv : Advice
  advCnt : AdvCnt
  xmask : BitVec 12
  alcCeil : Nat
  alcCur : Nat
  lmap : BitVec 32
  idleEdges : Nat
  gated : Bool
  freeze : BitVec 2
  cgid : BitVec 32
  part : BitVec 4
  vdid : BitVec 6
  capbase : BitVec 36
  inflSel : BitVec 8
  waddr : Word
  /-- What firmware has put into LMAP and INFLIGHT words, whose fields otherwise follow other state: number, value that stood there,
  value put (R10; log 61). -/
  put : List (Nat × Word × Word)
  icache : List ILine
  /-- The core's TLB (R283). -/
  tlb : List TlbEntry
  dbg : Debug
  /-- Nanoseconds of the current strip that count against its budget (R44). -/
  stripNs : Nat
  /-- Registers whose saved words are poisoned (R376). -/
  saveBad : List ParitySite
  /-- Edges that the queue watchdog has counted (R389). -/
  queueEdges : Nat
  /-- Recent timing errors: lane and TSTAMP (R393). -/
  timing : List (Fin 32 × Nat)
  deriving DecidableEq, Repr

/-! ## Parts of a cluster -/

/-- The states of a readable line (R90); a line not listed is in I. -/
inductive LineSt where
  | s | e | m
  deriving DecidableEq, Repr

/-- A line of a cluster cache with its owner tag (R90, R268). -/
structure CLine where
  line : Nat
  st : LineSt
  vdid : BitVec 6
  deriving DecidableEq, Repr

/-- A line held in U: tag, partial and touched bits by byte (R90, R97). -/
structure ULine where
  line : Nat
  tag : UTag
  data : BitVec 1024
  touched : BitVec 128
  /-- Failed sectors of the partial (R374). -/
  poison : BitVec 4
  vdid : BitVec 6
  deriving DecidableEq, Repr

/-- A line held in W: bytes, mask and the nanoseconds since its allocation (R102). -/
structure WLine where
  line : Nat
  data : BitVec 1024
  mask : BitVec 128
  poison : BitVec 4
  /-- Sectors that one instruction has covered whole, whose mark at the home ends with the write (R372). -/
  clean : BitVec 4
  vdid : BitVec 6
  age : Nat
  deriving DecidableEq, Repr

/-- An update that waits in the cluster cache for a grant: line, tag, byte offset, data, and its core, virtual device and
insertion position (R97, R239, R246). -/
structure UWait where
  line : Nat
  tag : UTag
  off : Nat
  val : Word
  core : Fin 1024
  vdid : BitVec 6
  pos : Ins
  deriving DecidableEq, Repr

/-- A B register's contents as reuse compares them: address, planes, scratchpad or tile of a core (R218), and, of a B with more
than 8 planes, which of its loads stands there (R219). -/
structure BLoad where
  scratch : Bool
  core : Nat
  addr : Nat
  planes : Nat
  part : Nat
  loaded : Bool
  /-- Its source has been written since the load began: it is reused no more (R218). -/
  stale : Bool
  /-- The pass that it was loaded for: core and place in program order. -/
  forPass : Nat × Nat
  deriving DecidableEq, Repr

/-- A party that has arrived at a FIFO bank and stands blocked there: a core's AP or its vector memory queue, to push or to pop
(R75). -/
structure FifoWait where
  bank : Fin 32
  push : Bool
  core : Fin 1024
  vm : Bool
  deriving DecidableEq, Repr

/-- A cluster (R18). -/
structure Cluster where
  cbmode : Word
  refused : BitVec 32
  busy : BitVec 32
  /-- Modes asked for of the busy banks (R74). -/
  asked : Word
  /-- The virtual device that asked last (R267). -/
  askedBy : BitVec 6
  sem : BitVec 64
  /-- Waiters of semaphore bits in arrival order: bit, core (R153). -/
  semWait : List (Fin 64 × Fin 1024)
  /-- Bits granted to waiters that have not yet taken them. -/
  semGrant : List (Fin 64 × Fin 1024)
  cd : Vector Word 32
  fifo : Vector (List Word) 32
  /-- Entries of FIFO banks in poisoned sectors, by bank and place from the head (R370). -/
  fifoBad : List (Fin 32 × Nat)
  /-- Blocked parties of FIFO banks in arrival order (R75). -/
  fifoWait : List FifoWait
  breg : Vector (Option BLoad) 2
  /-- What the B registers hold (R18). -/
  bdata : Vector BPart 2
  /-- The B register the array last fed from. -/
  arrayB : Fin 2
  /-- Edges of the die at the last plane-clock (R219). -/
  planeAt : Nat
  /-- The cluster TLB: leaves and table pointers (R283). -/
  tlb : List TlbEntry
  ptrs : List PtrEntry
  lines : List CLine
  us : List ULine
  ws : List WLine
  /-- The recency order of the held lines, the protected end first (R268); a number whose line is not held means nothing. -/
  order : List Nat
  uwaits : List UWait
  deriving DecidableEq, Repr

/-- What an arbiter request carries (R264): work of classes 1, 2, semantic work (3 or 4, with the priority of its group),
advice (5), and writes of class 6. -/
inductive Work where
  | coherence | save | semantic (prio : Nat) | advice | trace
  deriving DecidableEq, Repr

/-! ## Coherence between clusters and with the outside -/

/-- The tokens of a line that is not wholly at its home (R93): home, gateways 0 to 4, and the owner's place (5: home). -/
structure TokRec where
  line : Nat
  home : Nat
  gw : Vector Nat 5
  owner : Nat
  deriving DecidableEq, Repr

/-- A request of a gateway for tokens, with the cluster and virtual device that wait for it, read or write, failed attempts,
and clock edges since it began (R94, R95). Requests of one gateway for one line stand in peloton order; the first is the
one that has been sent (R92). -/
structure TokReq where
  gw : Fin 5
  cl : Option (Fin 128)
  vdid : BitVec 6
  line : Nat
  write : Bool
  fails : Nat
  edges : Nat
  /-- What the access is charged as (R267). -/
  work : Work
  deriving DecidableEq, Repr

/-- The home's record of a line in U (R97). -/
structure URec where
  line : Nat
  tag : UTag
  presence : BitVec 128
  /-- While merging: the slots that have given up their partials, with them (R98). -/
  merging : Option (List (Nat × ULine))
  /-- Nanoseconds since the merge began (R379). -/
  ns : Nat
  /-- The virtual device whose access began the merge (R267). -/
  beginner : Option (BitVec 6)
  deriving DecidableEq, Repr

/-- A request on its way to the homes, or a grant on its way back: slot, line, tag, virtual device (R97). -/
structure UReq where
  slot : Nat
  line : Nat
  tag : UTag
  vdid : BitVec 6
  deriving DecidableEq, Repr

/-- An entry of a persistent table (R95). -/
structure Persist where
  home : Fin 5
  gw : Fin 5
  cl : Option (Fin 128)
  vdid : BitVec 6
  line : Nat
  write : Bool
  active : Bool
  ns : Nat
  work : Work
  deriving DecidableEq, Repr

/-- A dirty line of bonded DRAM, which two windows reach: its number in one of them, the bytes that DRAM held as it turned dirty,
and its own bytes while `State.mem` holds what the other window's address reaches (R69). -/
structure AliasLine where
  line : Nat
  home : BitVec 1024
  own : Option (BitVec 1024)
  deriving DecidableEq, Repr

/-- States of a frame (R104). -/
inductive PageSt where
  | device | host | readOnly
  deriving DecidableEq, Repr

/-- A page-state table entry (R104). -/
structure PageEnt where
  frame : Nat
  st : PageSt
  party : BitVec 4
  deriving DecidableEq, Repr

/-- PGHO (R105) and the handover in progress (R106, R380): the frame closed while status is 1. -/
structure Handover where
  frame : BitVec 36
  party : BitVec 4
  target : BitVec 2
  status : BitVec 2
  ns : Nat
  deriving DecidableEq, Repr

/-- An access of the host or a peer that stalls at the gateway of the system die while its frame is closed (R106). -/
structure OutReq where
  pa : Word
  write : Option (List Byte)
  /-- Bytes read. -/
  len : Nat
  deriving DecidableEq, Repr

/-- The coherence machinery. -/
structure Coherence where
  toks : List TokRec
  reqs : List TokReq
  urecs : List URec
  ureqs : List UReq
  /-- Grants sent and not yet arrived. -/
  ugrants : List UReq
  persist : List Persist
  /-- The die last served by each home (R95). -/
  lastServed : Vector Nat 5
  pages : List PageEnt
  hand : Handover
  outside : List OutReq
  /-- Refusals of a request that has not been delivered yet: cluster, line, count (R377). -/
  refusals : List (Nat × Nat × Nat)
  /-- Dirty lines of bonded DRAM, by the window that names them; one that no cache holds in M any more has gone home. -/
  dirty : List AliasLine
  /-- The model's own: U requests stay outstanding until their events (log 1). -/
  slowU : Bool
  deriving DecidableEq, Repr

/-! ## Virtual devices, groups and the command processor -/

/-- A rate record (R261). -/
structure RateRec where
  guaranteed : Bool
  ins : BitVec 2
  ways : Nat
  acc : Nat
  rate : Vector Nat 7
  depth : Vector Nat 7
  status : Word
  slots : Vector (BitVec 32 × BitVec 32) 4
  deriving DecidableEq, Repr

/-- A launch record (R28 to R31). -/
structure LaunchRec where
  sentry : Word
  aentry : Word
  ctab : Word
  args : Word
  gx : Nat
  gy : Nat
  gz : Nat
  prio : Fin 8
  /-- Levels, outermost first: domain, scope, extent (R30). -/
  levels : List (Nat × Nat × Nat)
  deps : List (Word × Word)
  fin : Word
  budget : Nat
  dflags : BitVec 3
  keeps : List (Nat × Nat)
  deriving DecidableEq, Repr

/-- An accepted launch (R251): its group name and record. -/
structure Launch where
  cgid : BitVec 32
  addr : Word
  lr : LaunchRec
  pid : BitVec 32
  tid : BitVec 32
  deriving DecidableEq, Repr

/-- A dependence pair that has not been satisfied yet: the launch it holds, the place of its counter and the target (R253). -/
structure Dep where
  cgid : BitVec 32
  key : Nat
  target : Word
  deriving DecidableEq, Repr

/-- FAULTQ and STAMPQ (R316, R344). -/
structure RecQ where
  drop : BitVec 16
  head : BitVec 16
  tail : BitVec 16
  deriving DecidableEq, Repr

/-- A virtual device (R272). -/
structure Vd where
  vdid : BitVec 6
  part : BitVec 4
  budget : Nat
  root : Nat
  save : Nat
  faultq : Word
  faultn : Nat
  stampq : Word
  stampn : Nat
  dkey : Nat
  fports : BitVec 16
  xdef : BitVec 16
  sems : BitVec 64
  cds : BitVec 32
  banks : BitVec 32
  ports : BitVec 128
  excl : BitVec 1024
  shared : BitVec 1024
  rate : RateRec
  fq : RecQ
  sq : RecQ
  /-- Accepted launches, modulo 2^26 (R32). -/
  count : Nat
  /-- The eight queues of accepted launches, and the eight resume lists (R252). -/
  queues : Vector (List Launch) 8
  resume : Vector (List (BitVec 32)) 8
  deriving DecidableEq, Repr

/-- How a group stands (R32, R44, R309, R345). -/
inductive GroupSt where
  | running | saving | saved | restoring
  deriving DecidableEq, Repr

/-- A compute group (R32). -/
structure Group where
  cgid : BitVec 32
  vdid : BitVec 6
  pid : BitVec 32
  tid : BitVec 32
  addr : Word
  lr : LaunchRec
  mask : BitVec 1024
  wave : Nat
  first : Nat
  /-- Cores of the wave that have not halted. -/
  live : Nat
  st : GroupSt
  preempt : Bool
  stopped : Bool
  saved : List Core
  /-- Core-store bytes that the save holds, as first key in `State.loc` and bytes, and their poisoned sectors (R45). -/
  kept : List (Nat × List Byte)
  keptPoison : List Nat
  /-- Killed: the fault add is still to be made (R345 step 5). -/
  killed : Bool
  order : Nat
  deriving DecidableEq, Repr

/-- A record, or a stamp record, that waits for its slot's frame to open or for its line (R106, R316, R344). -/
structure PendRec where
  vdid : BitVec 6
  stamp : Bool
  bytes : Nat
  deriving DecidableEq, Repr

/-- A packet on its way to the die schedulers, and the dies that have still to take it (R33). -/
structure Packet where
  cgid : BitVec 32
  wave : Nat
  restore : Bool
  dies : BitVec 4
  deriving DecidableEq, Repr

/-- A bucket of an arbiter instance (R259): level in 1/1,024 token, the kind, rate and depth in force there (R261), and the
counts of R262 in the window. -/
structure Bucket where
  kind : Nat
  inst : Nat
  vdid : BitVec 6
  level : Int
  guaranteed : Bool
  rate : Nat
  depth : Nat
  own : Nat
  lent : Nat
  forgiven : Nat
  /-- The time of the instance up to which it has been refilled: at most the end of the window. -/
  upTo : Nat
  deriving DecidableEq, Repr

/-- The pool of an arbiter instance, in 1/1,024 token (R263), its window number, and the time up to which it has been fed. -/
structure Pool where
  kind : Nat
  inst : Nat
  level : Nat
  window : Nat
  upTo : Nat
  deriving DecidableEq, Repr

/-- A request that stands at an arbiter instance until it holds a token (R264): grant units left, and the time of the instance at
which it was presented. -/
structure ArbReq where
  kind : Nat
  inst : Nat
  vdid : BitVec 6
  work : Work
  units : Nat
  time : Nat
  deriving DecidableEq, Repr

/-- A partition (R270, R271): its system cores, the granules of 1 GiB taken from partition 0, by number, and its permission
to set the clock mode (R296). -/
structure Partition where
  sysCores : BitVec 16
  granules : List Nat
  clock : Bool
  deriving DecidableEq, Repr

/-- A command window (R288), with the names of the thread that wrote its command (R307). -/
structure Window where
  cmd : BitVec 8
  arg0 : Word
  arg1 : Word
  st : BitVec 2
  code : BitVec 8
  pid : BitVec 32
  tid : BitVec 32
  deriving DecidableEq, Repr

/-- What a party outside is answered: bytes, a completer abort (R104), an Unsupported Request completion (R291), or what the host
endpoint reports through AER of a link or of a fatal error (R377). -/
inductive Answer where
  | bytes (l : List Byte)
  | completerAbort
  | unsupportedRequest
  | aer (fatal : Bool) (index : Nat)
  deriving DecidableEq, Repr

/-- What firmware writes into the partition table in M view (R270, R271, R291, R296). -/
inductive TableWrite where
  | granule (g : Nat) (p : Fin 16)
  | clock (p : Fin 16) (on : Bool)
  | rootPort (k : Fin 4) (p : BitVec 4)
  deriving DecidableEq, Repr

/-- A registered collective (R289). -/
structure Collective where
  id : Word
  nranks : Nat
  ranks : List (BitVec 24 × Nat)
  deriving DecidableEq, Repr

/-- Where a rank of this part receives a round: its core and virtual device, result and counter addresses (R222). -/
structure RankDest where
  core : Fin 1024
  vdid : BitVec 6
  result : Word
  counter : Word
  deriving DecidableEq, Repr

/-- A contribution that has reached the fabric reduction unit (R222, R290); `dest` for a rank of this part. -/
structure Contribution where
  id : Word
  round : Nat
  rank : Nat
  op : Nat
  data : Acc
  dest : Option RankDest
  deriving DecidableEq, Repr

/-- A key-store slot (R288, R318). -/
structure KeySlot where
  slot : Nat
  key : List Byte
  part : BitVec 4
  deriving DecidableEq, Repr

/-- The phases of the droop response (R302). -/
inductive DroopPhase where
  | nominal | stretch | halving
  deriving DecidableEq, Repr

/-- A step of the voltage and frequency sequencer in progress (R304). -/
inductive VfStep where
  | volt (up : Bool)
  | freq (up : Bool)
  deriving DecidableEq, Repr

/-- Power, clock and droop registers of a die (R302 to R304, R394, R395). -/
structure Die where
  droopth : Nat
  stretch : Nat
  halve : Nat
  phase : DroopPhase
  left : Nat
  cycle : Word
  /-- Clock edges since reset, which its arbiters count (R259). -/
  edges : Nat
  /-- Frequency in steps of 50 MHz and rail voltage in steps of 25 mV, with the frequency aimed at and the step in progress
  (R304). -/
  freq : Nat
  volt : Nat
  target : Nat
  step : Option VfStep
  /-- The frequency at which restoring ends, and the fused table: the voltage at 1.0, 1.1 to 1.4 GHz (R304, R306). -/
  aim : Nat
  volts : Vector Nat 5
  temp : Int
  /-- Lowered for its temperature, which has not fallen below 95 °C since (R395). -/
  hot : Bool
  /-- Clock edges, and those of them spent in a response, within the millisecond; whether it had an alarm, and whether a
  limit of R394 is in force. -/
  msEdges : Nat
  busyEdges : Nat
  alarmed : Bool
  limited : Bool
  /-- A frequency step down has been made since the last step up (R304). -/
  falling : Bool
  /-- Table pointers that the die's walker caches (R283). -/
  ptrs : List PtrEntry
  deriving DecidableEq, Repr

/-- A firmware log record (R382). -/
structure LogRec where
  severity : BitVec 8
  code : BitVec 8
  unit : BitVec 8
  index : BitVec 32
  addr : Word
  syndrome : BitVec 64
  count : BitVec 32
  vdmask : BitVec 64
  time : Word
  deriving DecidableEq, Repr

/-- Corrected errors of a unit (R373, R382): how many since its last record, and the TSTAMPs of those that count towards 256 within
1 s, newest first. -/
structure CorrectedCount where
  unit : ScrubUnit
  count : Nat
  times : List Nat
  deriving DecidableEq, Repr

/-- The dump engine at work (R318): VDID, destination, key-store slot and nonce counter. -/
structure Dump where
  vdid : BitVec 6
  dest : Nat
  slot : Nat
  count : Word
  deriving DecidableEq, Repr

/-- The system die and the rest of the part. -/
structure Part where
  /-- Present clusters (R3). -/
  present : BitVec 128
  /-- Bytes of CXL memory configured, and the mask of its ports (R278, R292). -/
  cxlBytes : Nat
  cxlPorts : BitVec 8
  parts : Vector Partition 16
  rootParts : Vector (BitVec 4) 4
  vds : List Vd
  groups : List Group
  packets : List Packet
  starts : Nat
  /-- Cores that are scrubbed before they next run a group (R254, R273). -/
  scrubDue : BitVec 1024
  frames : List (Nat × BitVec 16)
  buckets : List Bucket
  pools : List Pool
  areqs : List ArbReq
  /-- Records not yet performed, oldest first. -/
  recs : List PendRec
  windows : Vector Window 16
  /-- Busy windows in the order in which their commands came (R288). -/
  winQueue : List (Fin 16)
  /-- The fabric address of the part (R289). -/
  fabric : BitVec 24
  colls : List Collective
  contribs : List Contribution
  keys : List KeySlot
  nonce : Word
  lockedClock : Bool
  tstamp : Word
  /-- Nanoseconds of the reference since reset, which the system die's arbiters count (R259). -/
  ns : Nat
  dies : Vector Die 4
  /-- Temperature of the system die (R298), whether it has stood at 100 °C and not fallen below 95 °C since (R395), and whether the
  power average has exceeded 2,300 W and not fallen below 2,200 W since (R306). -/
  sysTemp : Int
  sysHot : Bool
  overPower : Bool
  /-- Package power measured in the last millisecond's ticks (R306). -/
  watts : List Nat
  /-- Control ticks within the millisecond (R306, R394). -/
  ticks : Nat
  bootStage : Nat
  mr : Vector (BitVec 384) 8
  bootHeld : Option Nat
  /-- Holding of the compute dies after a fatal error (R377, R395). -/
  fatalHeld : Bool
  algorithms : Bool
  answers : List Answer
  /-- The capability list that boot wrote (R277, R278). -/
  caps : List Byte
  fwLog : List LogRec
  fwLost : Nat
  corrected : List CorrectedCount
  portsDown : BitVec 16
  /-- Links in retraining, with the attempts made (R377). -/
  retrains : List (LinkKind × Nat × Nat)
  dump : Option Dump
  deriving DecidableEq, Repr

/-! ## The machine -/

/-- Where a translation is cached (R283). -/
inductive TlbAt where
  | core (i : Fin 1024) | cluster (cl : Fin 128) | clusterPtr (cl : Fin 128) | walker (d : Fin 4)
  deriving DecidableEq, Repr

/-- What moves next, when it is not the machine's own order: the outside, another agent, time, or another core
(log 1, log 4). -/
inductive Turn where
  /-- An event row of the opcode table. -/
  | event (i : Instr)
  /-- The active core's AP issues. -/
  | ap
  /-- The active core, held within the last 2 µs by another core's fault, finishes the AP instruction that it is in (R341, R346). -/
  | apLate
  /-- The active core's advice sequencer issues. -/
  | advice
  /-- The active core's EP or vector memory queue takes its head. -/
  | ep
  | vmq
  /-- Clock edges of each die and nanoseconds of the reference pass. -/
  | tick (e0 e1 e2 e3 ns : Nat)
  /-- Another started core becomes the active one. -/
  | switch (core : Fin 1024)
  /-- The active core's copy moves n more sectors (R86). -/
  | sectors (i n : Nat)
  /-- A cached translation or table pointer is dropped, or those of an address for the active core's virtual device are
  cached: leaves in its own TLB, its cluster's, or table pointers in its cluster or in its die's walker (R283; log 8). -/
  | tlbDrop (w : TlbAt) (i : Nat)
  | tlbFill (w : TlbAt) (va : Word)
  /-- A die's scheduler takes the oldest packet that has still to reach it, ahead of other dies (R24, R33; log 10). -/
  | packet (die : Fin 4)
  /-- An outstanding U request, or a grant, overtakes those before it (R100; log 11). -/
  | overtake (grant : Bool) (i : Nat)
  /-- The line of an address is filled into the active core's instruction cache, or one of its lines is dropped (R243;
  log 8). -/
  | icFill (va : Word)
  | icDrop (i : Nat)
  /-- U requests stay outstanding until their events, or no longer (R97, R100). -/
  | slowU (on : Bool)
  /-- The execute processors and the vector memory queues move at their own turns alone, behind the AP, or no longer (R36). -/
  | slowEp (on : Bool)
  /-- A system core, by a thread of the names given, or the host, of a partition writes or reads a command window (R288,
  R307). -/
  | windowWrite (host : Bool) (party : BitVec 4) (j : Fin 16) (off : Nat) (v : Word) (pid tid : BitVec 32)
  | windowRead (party : BitVec 4) (j : Fin 16) (off : Nat)
  /-- A read of up to 4,096 bytes by the host, or by a device behind a root port (R291). -/
  | outsideRead (port : Option (Fin 4)) (pa : Word) (n : Nat)
  | table (t : TableWrite)
  /-- Firmware sets the frequency at which a die's clock is to run, within the grade's bounds (R1, R299, R304; log 58). -/
  | clockAim (die : Fin 4) (f : Nat)
  /-- A partition loader extends one of MR4 to MR7 with an image (R293). -/
  | extendMr (k : Fin 4) (image : List Byte)
  /-- An error beyond a check's correction marks a sector, by its key: of DRAM or of CXL memory, where a device reports poison or a
  read fails; or of a core store or a cluster's SRAM (R292, R368, R377; log 69). -/
  | sectorBad (isLocal : Bool) (key : Nat)
  /-- A parity error of the active core's advice buffer (R368). -/
  | adviceParity
  /-- Firmware reads a record of its log, oldest first, or the header's lost count (R382). -/
  | logRead (i : Option Nat)
  deriving DecidableEq, Repr

/-- The state of the part: the active core, the other cores, the clusters, memory and the units. `agenda`, `slowEp`
and `free` are the model's own fields (log 1, log 2). -/
structure State where
  core : Core
  rest : List Core
  clusters : Vector Cluster 128
  mem : Memory
  /-- Poisoned 32-byte sectors of generic memory, by number, rising (R370). -/
  poison : List Nat
  loc : Memory
  locPoison : List Nat
  coh : Coherence
  part : Part
  deps : List Dep
  agenda : List Turn
  slowEp : Bool
  /-- The active core's AP has issued an instruction since its turn in the round of cores came (R49; log 1). -/
  issued : Bool
  free : Nat
  deriving DecidableEq, Repr

/-! ## Reset -/

def Memory.empty : Memory := ⟨[], []⟩

def Tile.empty : Tile := ⟨.empty, 0, 0, 0, none⟩

def Advice.off : Advice :=
  { st := .off, cause := 0, cur := 0, pc := 0, h := Vector.replicate 16 0, buffer := [], fifo := [], snapshot := 0,
    awaitC := 0, awaitS := 0, miss := false, ldidx := none, reqs := [], acts := 0, skipped := [], ins := [], cpri := [], mord := none,
    overflow := false, barred := false, aentry := 0, ctab := 0, due := false }

def Debug.reset : Debug :=
  { st := .running, cause := 0, bp := 0, recMode := false, bpa := Vector.replicate 4 0, wpa := Vector.replicate 2 0,
    wpl := Vector.replicate 2 0, recbase := 0, terrLane := 0, terrCount := 0, hist := [], newer := 0, viewAt := none,
    cpSeq := 0, cpRetired := 0, retired := 0, logged := 0, passBp := false, stepNs := 0 }

/-- A core after reset: in the M view, running nothing (R276); registers without a stated value are zero (log 7). -/
def Core.reset (i : Fin 1024) : Core :=
  { index := i, run := .off, held := false, late := 0, pc := 0, s := Vector.replicate 64 0, sBank := Vector.replicate 8 0,
    vl := 0, stripBase := 0, stripNext := 0, rm := 0, seed := 0, resync := 0, team := false, wait := .none, view := .m,
    entry := none, v := Vector.replicate 32 0, poisonV := 0, m := Vector.replicate 8 0, k := Vector.replicate 16 0,
    vq := Vector.replicate 4 [], q4 := [], q5 := [], q6 := [], q7 := [], viq := [], vmq := [], seq := 1, acqSeq := 0, defer := [],
    pmask := 0, tiles := Vector.replicate 64 Tile.empty, want := 0, acc := 0, lanes := 0, z := Vector.replicate 4 0,
    copies := [], streams := Vector.replicate 4 none, mats := [], colls := Vector.replicate 8 none, adv := Advice.off,
    advCnt := ⟨0, 0, 0, 0⟩, xmask := 0, alcCeil := 32, alcCur := 32, lmap := 0xFFFFFFFF, idleEdges := 0,
    gated := false, freeze := 0, cgid := 0, part := 0, vdid := 0, capbase := 0, inflSel := 0, waddr := 0, put := [], icache := [], tlb := [],
    dbg := Debug.reset, stripNs := 0, saveBad := [], queueEdges := 0, timing := [] }

/-- A cluster after reset: every bank a cache way (R20, R73). -/
def Cluster.reset : Cluster :=
  { cbmode := 0, refused := 0, busy := 0, asked := 0, askedBy := 0, sem := 0, semWait := [], semGrant := [],
    cd := Vector.replicate 32 0, fifo := Vector.replicate 32 [], fifoBad := [], fifoWait := [], breg := Vector.replicate 2 none, bdata := Vector.replicate 2 ⟨0, false⟩,
    arrayB := 0, planeAt := 0,
    tlb := [], ptrs := [], lines := [], us := [], ws := [], order := [], uwaits := [] }

/-- Every token at its home, no frame handed over (R93, R104, R105). -/
def Coherence.reset : Coherence :=
  { toks := [], reqs := [], urecs := [], ureqs := [], ugrants := [], persist := [], lastServed := Vector.replicate 5 4,
    pages := [], hand := ⟨0, 0, 0, 0, 0⟩, outside := [], refusals := [], dirty := [], slowU := false }

/-- DROOPTH 40, STRETCH 6, HALVE 64 (R302); 1.2 GHz (R2) at 0.75 V, and R304's table on every die (log 7). -/
def Die.reset : Die :=
  { droopth := 40, stretch := 6, halve := 64, phase := .nominal, left := 0, cycle := 0, edges := 0, freq := 24, volt := 30,
    target := 24, step := none, aim := 24, volts := #v[28, 29, 30, 31, 32], temp := 25, hot := false, msEdges := 0, busyEdges := 0, alarmed := false, limited := false, falling := false, ptrs := [] }

/-- Partition 0 holds every system core (R270). -/
def Partition.reset (i : Fin 16) : Partition :=
  ⟨if i = 0 then 0xFFFF else 0, [], false⟩

def Part.reset : Part :=
  { present := BitVec.allOnes 128, cxlBytes := 0, cxlPorts := 0, parts := Vector.ofFn Partition.reset,
    rootParts := Vector.replicate 4 0, vds := [], groups := [], packets := [], starts := 0, scrubDue := 0, frames := [], buckets := [],
    pools := [], areqs := [], recs := [], windows := Vector.replicate 16 ⟨0, 0, 0, 0, 0, 0, 0⟩, winQueue := [], fabric := 0, colls := [], contribs := [], keys := [], nonce := 0,
    lockedClock := false, tstamp := 0, ns := 0, dies := Vector.replicate 4 Die.reset, sysTemp := 25, sysHot := false, overPower := false, watts := [], ticks := 0,
    bootStage := 0, mr := Vector.replicate 8 0, bootHeld := none, fatalHeld := false, algorithms := false,
    answers := [], caps := [], fwLog := [], fwLost := 0, corrected := [], portsDown := 0, retrains := [], dump := none }

/-- The part right after reset. -/
def State.reset : State :=
  { core := Core.reset 0, rest := [], clusters := Vector.replicate 128 Cluster.reset, mem := Memory.empty, poison := [],
    loc := Memory.empty, locPoison := [], coh := Coherence.reset, part := Part.reset, deps := [], agenda := [],
    slowEp := false, issued := false, free := 0 }

end Sys2Proof.Machine
end

