-- ==== Sys2Proof/Machine/Mem.lean ====
section
/-! DEFINITION. Memory as data: bytes by address in one canonical form (rising addresses, no entry equal to what an
unlisted address reads as), little-endian accesses (R4), and the poison marks of 32-byte sectors (R370). -/

namespace Sys2Proof.Machine

open Sys2Proof

/-! ## Cells -/

/-- Whether a range covers an address. -/
def FreeRange.covers (r : FreeRange) (a : Nat) : Bool := decide (r.lo ≤ a ∧ a < r.lo + r.len)

/-- What an address that is not listed reads as: zero (log 5), or an undefined byte (log 15). -/
def unlistedIn (free : List FreeRange) (a : Nat) : Byte :=
  match free.find? (fun r => r.covers a) with
  | some r => match r.gen with
    | some g => Config.freeByte g a
    | none => 0
  | none => 0

def Memory.unlisted (m : Memory) (a : Nat) : Byte := unlistedIn m.free a

def cellFind : List Host.Cell → Nat → Option Byte
  | [], _ => none
  | (x, b) :: t, a => if x = a then some b else cellFind t a

def cellInsert : List Host.Cell → Nat → Byte → List Host.Cell
  | [], a, b => [(a, b)]
  | (x, y) :: t, a, b =>
    if a < x then (a, b) :: (x, y) :: t
    else if a = x then (a, b) :: t
    else (x, y) :: cellInsert t a b

def cellErase (l : List Host.Cell) (a : Nat) : List Host.Cell := l.filter (fun c => decide (c.1 ≠ a))

/-- The canonical form. -/
abbrev Memory.wf (m : Memory) : Prop :=
  m.cells.Pairwise (fun x y => x.1 < y.1) ∧ ∀ c ∈ m.cells, c.2 ≠ m.unlisted c.1

/-- One byte. -/
def Memory.read (m : Memory) (a : Nat) : Byte := (cellFind m.cells a).getD (m.unlisted a)

/-- One byte stored: a byte equal to what the unlisted address reads as leaves no entry. -/
def Memory.write (m : Memory) (a : Nat) (b : Byte) : Memory :=
  { m with cells := if b = m.unlisted a then cellErase m.cells a else cellInsert m.cells a b }

/-- The little-endian value of n bytes (R4). -/
def Memory.readN (m : Memory) : Nat → Nat → Nat
  | _, 0 => 0
  | a, n + 1 => (m.read a).toNat + 256 * m.readN (a + 1) n

/-- n bytes stored little-endian (R4). -/
def Memory.writeN (m : Memory) : Nat → Nat → Nat → Memory
  | _, 0, _ => m
  | a, n + 1, v => (m.write a (BitVec.ofNat 8 v)).writeN (a + 1) n (v / 256)

def Memory.readList (m : Memory) (a n : Nat) : List Byte := (List.range n).map (fun i => m.read (a + i))

def Memory.writeList (m : Memory) : Nat → List Byte → Memory
  | _, [] => m
  | a, b :: t => (m.write a b).writeList (a + 1) t

/-- Bytes of a range that no entry lists any more. -/
def Memory.dropCells (m : Memory) (lo len : Nat) : List Host.Cell :=
  m.cells.filter (fun c => decide (c.1 < lo ∨ lo + len ≤ c.1))

/-- A range whose bytes become undefined (R45). -/
def Memory.makeFree (m : Memory) (lo len gen : Nat) : Memory :=
  ⟨m.dropCells lo len, ⟨lo, len, some gen⟩ :: m.free⟩

/-- A range zeroed (R74, R254, R271). -/
def Memory.makeZero (m : Memory) (lo len : Nat) : Memory :=
  ⟨m.dropCells lo len, if m.free.isEmpty then [] else ⟨lo, len, none⟩ :: m.free⟩

/-! ## Poison -/

/-- A number put into a rising list. -/
def natInsert : List Nat → Nat → List Nat
  | [], a => [a]
  | x :: t, a => if a < x then a :: x :: t else if a = x then x :: t else x :: natInsert t a

def natErase (l : List Nat) (a : Nat) : List Nat := l.filter (fun x => decide (x ≠ a))

/-- Whether an access of n bytes at a meets a poisoned sector (R370). -/
def touchesPoison (l : List Nat) (a n : Nat) : Bool :=
  l.any (fun p => decide (p * 32 < a + n ∧ a < p * 32 + 32))

/-! ## Local keys (R70) -/

/-- Where a byte of a core's store stands in `State.loc`. -/
def coreKey (core off : Nat) : Nat := core * 2 ^ 24 + off

/-- Where a byte of a cluster's scratchpad banks stands in `State.loc`. -/
def scratchKey (cluster off : Nat) : Nat := 2 ^ 40 + cluster * 2 ^ 24 + off

/-! ## Waiters on counter words (R77, R388) -/

/-- A ccwait that is released by the value that stands now in the 8 bytes it waits on, when a write of n bytes at `key` has
touched them. -/
def wakeWait (gen loc : Memory) (isLocal : Bool) (key n : Nat) (w : Wait) : Wait :=
  match w with
  | .counter k l t false =>
    if l == isLocal && decide (k < key + n ∧ key < k + 8) && decide (t.toNat ≤ (if l then loc else gen).readN k 8) then
      .counter k l t true
    else w
  | _ => w

/-- The ccwait of a core, or the one to which its supervisor returns, released as above (R388). -/
def wakeCore (gen loc : Memory) (isLocal : Bool) (key n : Nat) (c : Core) : Core :=
  { c with wait := wakeWait gen loc isLocal key n c.wait
           entry := c.entry.map (fun e => { e with wait := wakeWait gen loc isLocal key n e.wait }) }

/-- A dependence pair that a write of n bytes at `key` of generic memory leaves unsatisfied (R253). -/
def depStays (gen : Memory) (key n : Nat) (d : Dep) : Bool :=
  !(decide (d.key < key + n ∧ key < d.key + 8) && decide (d.target.toNat ≤ gen.readN d.key 8))

/-- Every waiter compared after a write of n bytes at a key of generic memory or of local space. -/
def wake (s : State) (isLocal : Bool) (key n : Nat) : State :=
  { s with deps := if isLocal then s.deps else s.deps.filter (depStays s.mem key n)
           core := wakeCore s.mem s.loc isLocal key n s.core
           rest := s.rest.map (wakeCore s.mem s.loc isLocal key n) }

/-! ## Vectors -/

/-- Element e of width w of a register. -/
def elemGet (w e : Nat) (v : Vec) : Nat := v.toNat / 2 ^ (w * e) % 2 ^ w

/-- Element e of width w replaced. -/
def elemSet (w e x : Nat) (v : Vec) : Vec :=
  (v &&& ~~~(BitVec.ofNat 32768 ((2 ^ w - 1) * 2 ^ (w * e)))) ||| BitVec.ofNat 32768 (x % 2 ^ w * 2 ^ (w * e))

/-- Elements below n replaced where f gives a value. -/
def elemUpd (w : Nat) (f : Nat → Option Nat) : Nat → Vec → Vec
  | 0, v => v
  | n + 1, v =>
    let u := elemUpd w f n v
    match f n with
    | some x => elemSet w n x u
    | none => u

/-- Byte j of a register, as a companion holds a scale (R62). -/
def byteGet (j : Nat) (v : Vec) : Nat := elemGet 8 j v

/-- Mask bits below n replaced where f gives a value. -/
def maskUpd (f : Nat → Option Bool) : Nat → Mask → Mask
  | 0, m => m
  | n + 1, m =>
    let u := maskUpd f n m
    match f n with
    | some true => u ||| BitVec.twoPow 1024 n
    | some false => u &&& ~~~(BitVec.twoPow 1024 n)
    | none => u

end Sys2Proof.Machine
end

