-- ==== Sys2Proof/Machine/Xlate.lean ====
section
/-! DEFINITION. Physical windows (R68, R69), granules (R270), translation tables and the checks of a walk (R279 to R283),
page states (R104) and the order of the checks of one generic access (R353 steps 8 to 11). -/

namespace Sys2Proof.Machine

open Sys2Proof

/-! ## Physical addresses -/

/-- The windows of R68; `absent` is a reserved window or an absent part of one. -/
inductive Win where
  | inter | vault (v : Nat) | cxl | host | absent
  deriving DecidableEq, Repr

def vaultBase : Nat := 0x4000000000
def cxlBase : Nat := 0x1000000000000
def hostBase : Nat := 0x8000000000000

/-- The number of present clusters among the first n (R3). -/
def presentBelow (p : BitVec 128) : Nat → Nat
  | 0 => 0
  | n + 1 => presentBelow p n + if p.getLsbD n then 1 else 0

/-- The i-th present vault in ascending order, looked for among the vaults from `v` on (R69). -/
def nthVault (p : BitVec 128) : Nat → Nat → Nat → Nat
  | 0, v, _ => v
  | fuel + 1, v, i =>
    if p.getLsbD v then (if i = 0 then v else nthVault p fuel (v + 1) (i - 1)) else nthVault p fuel (v + 1) i

/-- The window of a physical address (R68). -/
def window (p : Part) (pa : Nat) : Win :=
  if pa < 0x2000000000 then
    if pa < presentBelow p.present 128 * 2 ^ 30 then .inter else .absent
  else if vaultBase ≤ pa ∧ pa < 0x6000000000 then
    if p.present.getLsbD ((pa - vaultBase) / 2 ^ 30) then .vault ((pa - vaultBase) / 2 ^ 30) else .absent
  else if cxlBase ≤ pa ∧ pa < cxlBase + p.cxlBytes then .cxl
  else if hostBase ≤ pa ∧ pa < 2 ^ 52 then .host
  else .absent

/-- Where a physical byte stands in `State.mem`: a bonded-DRAM byte at its place in the vault window, whichever window
names it (R69). -/
def memKey (p : Part) (pa : Nat) : Nat :=
  if pa < 0x2000000000 then
    let nv := presentBelow p.present 128
    if nv = 0 then pa
    else
      let j := pa / 4096
      vaultBase + nthVault p.present 128 0 (j % nv) * 2 ^ 30 + j / nv * 4096 + pa % 4096
  else pa

/-- The other window's address of a byte of bonded DRAM, if it has one (R69). -/
def otherName (p : Part) (pa : Nat) : Option Nat :=
  let nv := presentBelow p.present 128
  match window p pa with
  | .inter => some (memKey p pa)
  | .vault v =>
    let o := pa - vaultBase - v * 2 ^ 30
    some ((o / 4096 * nv + presentBelow p.present v) * 4096 + o % 4096)
  | _ => none

/-- The partition that holds the granule of an address: 0 unless firmware gave it to another (R270). -/
def granuleOwner (p : Part) (pa : Nat) : Nat :=
  (((List.range 16).drop 1).find? (fun i => (p.parts[i]?.map (fun q => q.granules.contains (pa / 2 ^ 30))).getD false)).getD 0

/-- An address of a present window in a granule of the partition (R270, R281). -/
def paOk (p : Part) (partn : Nat) (pa : Nat) : Bool :=
  window p pa != .absent && granuleOwner p pa == partn

/-! ## Virtual devices -/

def findVd (p : Part) (v : BitVec 6) : Option Vd := p.vds.find? (fun d => d.vdid == v)

/-- A virtual device's record replaced. -/
def setVd (p : Part) (d : Vd) : Part :=
  { p with vds := p.vds.map (fun e => if e.vdid == d.vdid then d else e) }

/-! ## Walks -/

/-- What an access asks of a leaf (R281): a load, a store, an atomic, an update, an instruction fetch, or a translation under
any permission (R242). -/
inductive Acc where
  | load | store | atomic | update | fetch | any
  deriving DecidableEq, Repr

/-- An access that needs the write permission. -/
def Acc.writes (a : Acc) : Bool := a == .store || a == .atomic || a == .update

/-- A fault of a generic access: kind of R342, the level of R281, and the entries that the walk has read (R284). -/
structure XFault where
  kind : BitVec 8
  level : Nat
  reads : List Nat
  deriving DecidableEq, Repr

/-- A translation: physical address, kind of memory, the copy-on-write mark, the leaf's level and own address, the
entries that the walk has read with their values, and the leaf itself (R280, R282 to R284). -/
structure Xl where
  pa : Nat
  mkind : Nat
  cow : Bool
  level : Nat
  leafAddr : Nat
  reads : List (Nat × Word)
  leaf : Word
  deriving DecidableEq, Repr

/-- The outcome of a translation, or of the checks of one generic access; `stall` while a frame that it needs is closed
(R106) or its line is another requester's (R92, R95). -/
inductive Check where
  | ok (x : Xl)
  | stall
  | fault (f : XFault)
  deriving DecidableEq, Repr

/-- How a walk reads: an entry with its poison, and whether the entry cannot be read yet (R92, R106, R284). -/
structure Walker where
  rd : Nat → Nat × Bool
  closed : Nat → Bool

/-- Fault kinds of R342. -/
def kIllegalInstr : BitVec 8 := 1
def kIllegalOperand : BitVec 8 := 2
def kDeadRegister : BitVec 8 := 3
def kPrivilege : BitVec 8 := 4
def kAlignment : BitVec 8 := 5
def kLocalSpace : BitVec 8 := 6
def kAddressRange : BitVec 8 := 7
def kNotPresent : BitVec 8 := 8
def kMalformed : BitVec 8 := 9
def kPhysicalRange : BitVec 8 := 10
def kPermission : BitVec 8 := 11
def kCopyOnWrite : BitVec 8 := 12
def kPageState : BitVec 8 := 13
def kInstrFetch : BitVec 8 := 14
def kData : BitVec 8 := 15
def kGrant : BitVec 8 := 16
def kTileState : BitVec 8 := 17
def kTileWatchdog : BitVec 8 := 18
def kQueueDeadlock : BitVec 8 := 19
def kQueueNotEmpty : BitVec 8 := 20
def kDeferOverflow : BitVec 8 := 21
def kTrap : BitVec 8 := 22
def kCopy : BitVec 8 := 23
def kStream : BitVec 8 := 24
def kLaunchShape : BitVec 8 := 25
def kLaunchDependence : BitVec 8 := 26
def kSupervisor : BitVec 8 := 27
def kSupervisorKill : BitVec 8 := 28
def kMachineCheck : BitVec 8 := 29
def kVectorPartial : BitVec 8 := 30
def kFinishAdd : BitVec 8 := 31

/-- The kinds that enter the supervisor (R342); vector-partial is decided by its pages' kinds. -/
def repairKind (k : BitVec 8) : Bool :=
  k == kNotPresent || k == kPermission || k == kCopyOnWrite || k == kPageState || k == kInstrFetch || k == kTrap
    || k == kCopy

/-- Shift of the page offset of a leaf at a level (R279). -/
def leafShift (level : Nat) : Nat := if level = 0 then 16 else if level = 1 then 21 else 30

/-- Index of an address at a level (R279). -/
def tableIndex (level va : Nat) : Nat :=
  if level = 0 then va / 2 ^ 16 % 32 else va / 2 ^ (leafShift level) % 512

def tableIndex3 (va : Nat) : Nat := va / 2 ^ 39 % 512

/-- Whether a valid leaf at a level breaks R280 (R281's malformed row). -/
def leafBad (p : Part) (level : Nat) (e : Word) : Bool :=
  e.extractLsb' 52 12 != 0 || e.extractLsb' 10 6 != 0 || e.extractLsb' 8 2 == 3
    || (e.getLsbD 3 && !e.getLsbD 2)
    || (level == 1 && e.extractLsb' 16 5 != 0) || (level == 2 && e.extractLsb' 16 14 != 0)
    || (e.getLsbD 6 && (match window p ((e.extractLsb' 16 36).toNat * 2 ^ 16) with
        | .vault _ => false
        | .absent => !decide (vaultBase ≤ (e.extractLsb' 16 36).toNat * 2 ^ 16 ∧
            (e.extractLsb' 16 36).toNat * 2 ^ 16 < 0x6000000000)
        | _ => true))

/-- Whether a valid table pointer at a level breaks R280. -/
def pointerBad (level : Nat) (e : Word) : Bool :=
  e.extractLsb' 52 12 != 0 || e.extractLsb' 2 6 != 0 || (level != 1 && e.extractLsb' 8 4 != 0)

/-- The checks of a leaf that a translation has reached: physical range, then permission (R281). -/
def useLeaf (p : Part) (d : Vd) (acc : Acc) (level va : Nat) (e : Word) (leafAddr : Nat) (reads : List (Nat × Word)) :
    Check :=
  let pa := (e.extractLsb' 16 36).toNat * 2 ^ 16 + va % 2 ^ (leafShift level)
  let portOk := match window p pa with
    | .vault v => d.ports.getLsbD v
    | _ => true
  if !paOk p d.part.toNat pa || !portOk then .fault ⟨kPhysicalRange, level, reads.map Prod.fst⟩
  else
    let perm := match acc with
      | .load => e.getLsbD 2
      | .store | .atomic | .update => e.getLsbD 3
      | .fetch => e.getLsbD 4
      | .any => true
    if !perm then .fault ⟨if acc == .fetch then kInstrFetch else kPermission, level, reads.map Prod.fst⟩
    else .ok ⟨pa, (e.extractLsb' 8 2).toNat, e.getLsbD 5, level, leafAddr, reads, e⟩

/-- A walk from `level` down; `tbl` is the table's address, `reads` the entries read so far (R281). -/
def walk (p : Part) (d : Vd) (w : Walker) (acc : Acc) (va : Nat) : Nat → Nat → Nat → List (Nat × Word) → Check
  | 0, _, level, reads => .fault ⟨kMalformed, level, reads.map Prod.fst⟩
  | fuel + 1, tbl, level, reads =>
    let idx := if level = 3 then tableIndex3 va else tableIndex level va
    let at_ := tbl + 8 * idx
    let r := w.rd at_
    let e := BitVec.ofNat 64 r.1
    let all := reads ++ [(at_, e)]
    let bad (k : BitVec 8) : Check := .fault ⟨k, level, all.map Prod.fst⟩
    if w.closed at_ then .stall
    else if r.2 then bad kData
    else if !e.getLsbD 0 then bad (if acc == .fetch then kInstrFetch else kNotPresent)
    else if e.getLsbD 1 then
      if level == 3 || leafBad p level e then bad kMalformed
      else useLeaf p d acc level va e at_ all
    else if level == 0 || pointerBad level e then bad kMalformed
    else
      let next := (e.extractLsb' 8 44).toNat * 2 ^ 8
      if !paOk p d.part.toNat next then bad kPhysicalRange
      else walk p d w acc va fuel next (level - 1) all

/-- A cached translation that covers an address (R283). -/
def tlbHit (tlb : List TlbEntry) (v : BitVec 6) (va : Nat) : Option TlbEntry :=
  tlb.find? (fun t => t.vdid == v && decide (t.base ≤ va ∧ va < t.base + 2 ^ (leafShift t.level)))

/-- Bytes that an entry at a level covers, as a power of two (R279). -/
def entryShift (level : Nat) : Nat := if level = 3 then 39 else leafShift level

/-- The cached table pointer of the lowest level that covers an address (R283). -/
def ptrHit (ptrs : List PtrEntry) (v : BitVec 6) (va : Nat) : Option PtrEntry :=
  let l := ptrs.filter (fun t => t.vdid == v && decide (t.base ≤ va ∧ va < t.base + 2 ^ (entryShift t.level)))
  l.foldl (fun b t => match b with
    | none => some t
    | some x => if t.level < x.level then some t else some x) none

/-- Translation of a generic address: the range check, then a cached leaf, or a walk from the root or from the table that
a cached pointer names (R279 to R283). Without a virtual device there is no root to walk from: physical-range. -/
def translate (p : Part) (tlb : List TlbEntry) (ptrs : List PtrEntry) (w : Walker) (v : BitVec 6) (acc : Acc) (va : Word) :
    Check :=
  if va.extractLsb' 48 16 != 0 then .fault ⟨kAddressRange, 3, []⟩
  else
    match findVd p v with
    | none => .fault ⟨kPhysicalRange, 3, []⟩
    | some d =>
      match tlbHit tlb v va.toNat with
      | some t => useLeaf p d acc t.level va.toNat t.leaf t.leafAddr []
      | none =>
        match ptrHit ptrs v va.toNat with
        | some t => walk p d w acc va.toNat t.level t.next (t.level - 1) []
        | none =>
          if !paOk p d.part.toNat d.root then .fault ⟨kPhysicalRange, 3, []⟩
          else walk p d w acc va.toNat 4 d.root 3 []

/-! ## Page states -/

/-- The state of the frame of a physical address (R104). -/
def pageState (c : Coherence) (pa : Nat) : PageSt :=
  ((c.pages.find? (fun e => e.frame == pa / 2 ^ 16)).map (·.st)).getD .device

/-- Whether the frame is closed for a handover (R106). -/
def frameClosed (c : Coherence) (pa : Nat) : Bool :=
  c.hand.status == 1 && c.hand.frame.toNat == pa / 2 ^ 16

/-- What follows a translation, R353 steps 10 and 11, in the order of R357: the page state, a closed frame, copy-on-write. -/
def pageChecks (c : Coherence) (acc : Acc) (x : Xl) : Check :=
  if acc.writes && pageState c x.pa == .readOnly then .fault ⟨kPageState, 0, x.reads.map Prod.fst⟩
  else if frameClosed c x.pa then .stall
  else if acc.writes && x.cow then .fault ⟨kCopyOnWrite, x.level, x.reads.map Prod.fst⟩
  else .ok x

end Sys2Proof.Machine
end

