-- ==== Sys2Proof/Machine/Charge.lean ====
section
/-! DEFINITION. The arbiters of guaranteed rates (R259, R260, R263, R264, R267): buckets and lending pools, the path that data
takes over mesh and die links (R14, R22), and what a transfer is charged at each arbiter it passes. -/

namespace Sys2Proof.Machine

open Sys2Proof

/-! ## Instances -/

/-- Instances of each arbiter kind (R260). -/
def instancesOf (kind : Nat) : Nat :=
  if kind = 2 then 512 else if kind = 3 then 20 else if kind = 4 then 16 else if kind = 6 then 1 else 128

/-- Core indices of a mask, ascending. -/
def maskCores (m : BitVec 1024) : List Nat := (List.range 1024).filter (fun i => m.getLsbD i)

/-- Shared cores of a partition's virtual devices. -/
def sharedCores (p : Part) (part : Nat) : Nat :=
  (maskCores ((p.vds.filter (fun d => d.part.toNat == part)).foldl (fun m d => m ||| d.shared) 0)).length

/-- The capacity of an arbiter instance in grant units per window (R260). The command processor's instance has a capacity for
each partition, and stands here under the partition's number (log 45). -/
def capOf (p : Part) (kind inst : Nat) : Nat :=
  if kind = 1 then 4266
  else if kind = 2 then 4096
  else if kind = 3 then (if 16 ≤ inst ∨ inst % 4 = 3 then 26666 else 53333)
  else if kind = 4 then 1333
  else if kind = 6 then 1024 * sharedCores p inst
  else 16384

/-! ## Arbiter clocks (R259) -/

/-- Clock edges of the system die by a reference time: 1.2 GHz, as its arbiters' caps give its links (R2, R260; log 4). -/
def systemEdges (ns : Nat) : Nat := ns * 6 / 5

/-- The die whose clock an arbiter instance runs on; none for the system die's and the command processor's. -/
def arbDie (kind inst : Nat) : Option Nat :=
  if kind = 2 then some (inst / 128)
  else if kind = 3 then (if inst < 16 then some (inst / 4) else none)
  else if kind = 4 ∨ kind = 6 then none
  else some (inst / 32)

/-- The time of an arbiter instance since reset: clk of its own clock, or µs for the command processor. -/
def arbClock (p : Part) (kind inst : Nat) : Nat :=
  match arbDie kind inst with
  | some d => (p.dies[Fin.ofNat 4 d]).edges
  | none => if kind = 6 then p.ns / 1000 else systemEdges p.ns

/-! ## Buckets and pools -/

def findBucket (p : Part) (kind inst : Nat) (v : BitVec 6) : Option Bucket :=
  p.buckets.find? (fun b => b.kind == kind && b.inst == inst && b.vdid == v)

/-- A bucket of an instance changed. -/
def mapBucket (p : Part) (kind inst : Nat) (v : BitVec 6) (f : Bucket → Bucket) : Part :=
  { p with buckets := p.buckets.map (fun b => if b.kind == kind && b.inst == inst && b.vdid == v then f b else b) }

/-- A level in 1/1,024 token; 0 without a bucket. -/
def levelOf (p : Part) (kind inst : Nat) (v : BitVec 6) : Int := ((findBucket p kind inst v).map (·.level)).getD 0

/-- A lending pool; one that is not listed is full, as at reset (R259). -/
def getPool (p : Part) (kind inst : Nat) : Pool :=
  (p.pools.find? (fun q => q.kind == kind && q.inst == inst)).getD ⟨kind, inst, 1024 * capOf p kind inst, 0, 0⟩

def setPool (p : Part) (q : Pool) : Part :=
  { p with pools := p.pools.filter (fun x => !(x.kind == q.kind && x.inst == q.inst)) ++ [q] }

def poolOf (p : Part) (kind inst : Nat) : Nat := (getPool p kind inst).level

/-- Whether a virtual device is guaranteed by the record in force at an instance (R261). -/
def guaranteedAt (p : Part) (kind inst : Nat) (v : BitVec 6) : Bool :=
  ((findBucket p kind inst v).map (·.guaranteed)).getD false

/-- A request of class 3: a guaranteed virtual device whose bucket holds a token (R264). -/
def classThree (p : Part) (kind inst : Nat) (v : BitVec 6) : Bool :=
  guaranteedAt p kind inst v && decide (1024 ≤ levelOf p kind inst v)

/-- Grant units drawn from a bucket, as own tokens; or from the pool, counted for the virtual device (R259, R262, R264). -/
def chargeUnits (p : Part) (kind inst : Nat) (v : BitVec 6) (own : Bool) (units : Nat) : Part :=
  if own then mapBucket p kind inst v (fun b => { b with level := b.level - 1024 * units, own := b.own + units })
  else
    let q := getPool p kind inst
    setPool (mapBucket p kind inst v (fun b => { b with lent := b.lent + units })) { q with level := q.level - 1024 * units }

/-- A charge without waiting: the units that keep the level at -D or above are drawn, the others are forgiven and counted
(R267). -/
def chargeDown (b : Bucket) (units : Nat) : Bucket :=
  let room := ((b.level + b.depth * 1024) / 1024).toNat
  let n := min units room
  { b with level := b.level - 1024 * n, own := b.own + n, forgiven := b.forgiven + (units - n) }

/-- Whole tokens of a level. -/
def wholeTokens (x : Int) : Nat := (x / 1024).toNat

/-! ## Requests (R264) -/

/-- The tokens that a request may draw from its own bucket: a guaranteed virtual device's, and advice's, which draws from
nowhere else. -/
def ownTokens (p : Part) (kind inst : Nat) (v : BitVec 6) (w : Work) : Nat :=
  if w == .advice || guaranteedAt p kind inst v then wholeTokens (levelOf p kind inst v) else 0

/-- The tokens that it may draw from the pool. -/
def lentTokens (p : Part) (kind inst : Nat) (w : Work) : Nat := if w == .advice then 0 else poolOf p kind inst / 1024

/-- Units drawn as far as tokens go, the own bucket first; what is left stands at the instance (log 4). -/
def drawUnits (p : Part) (r : ArbReq) : Part :=
  let n := min r.units (ownTokens p r.kind r.inst r.vdid r.work)
  let m := min (r.units - n) (lentTokens p r.kind r.inst r.work)
  let p1 := if n = 0 then p else chargeUnits p r.kind r.inst r.vdid true n
  let p2 := if m = 0 then p1 else chargeUnits p1 r.kind r.inst r.vdid false m
  if r.units ≤ n + m then p2 else { p2 with areqs := p2.areqs ++ [{ r with units := r.units - n - m }] }

/-- Advice of a virtual device whose bucket can never hold a token: it is delivered where nothing else asks, and charged without
waiting (DEDUCED from R326 and R327; log 34). -/
def freeAdvice (p : Part) (kind inst : Nat) (v : BitVec 6) : Bool := (findBucket p kind inst v).any (fun b => b.depth == 0)

/-- Work charged at an instance (R264, R267): at once where it is charged without waiting or tokens are there and no request
stands before it; nothing for a virtual device that is not installed. -/
def charge (p : Part) (kind inst : Nat) (v : BitVec 6) (w : Work) (units : Nat) : Part :=
  if (findBucket p kind inst v).isNone || units == 0 then p
  else
    let r : ArbReq := ⟨kind, inst, v, w, units, arbClock p kind inst⟩
    match w with
    | .semantic _ => if p.areqs.any (fun x => x.kind == kind && x.inst == inst) then { p with areqs := p.areqs ++ [r] } else drawUnits p r
    | .advice =>
      if freeAdvice p kind inst v then mapBucket p kind inst v (fun b => chargeDown b units) else drawUnits p r
    | _ => mapBucket p kind inst v (fun b => chargeDown b units)

/-- The class in which a standing request may be granted now, if any (R264). -/
def reqClass (p : Part) (r : ArbReq) : Option Nat :=
  if 1 ≤ ownTokens p r.kind r.inst r.vdid r.work then some (if r.work == .advice then 5 else 3)
  else if 1 ≤ lentTokens p r.kind r.inst r.work then some 4
  else none

def workPrio (w : Work) : Nat :=
  match w with
  | .semantic n => n
  | _ => 0

/-- Whether a standing request goes before an older one: a lower class, in class 3 a lower VDID of the same clk, or in class 4 a
higher priority (R264). -/
def reqAhead (p : Part) (x y : ArbReq) : Bool :=
  match reqClass p x, reqClass p y with
  | some a, some b => decide (a < b) || (a == 3 && b == 3 && x.time == y.time && decide (x.vdid.toNat < y.vdid.toNat)) || (a == 4 && b == 4 && decide (workPrio y.work < workPrio x.work))
  | some _, none => true
  | none, _ => false

/-- The request that an instance grants next, by its place among the standing ones. -/
def nextReq (p : Part) (kind inst : Nat) : Option (Nat × ArbReq) :=
  let l := (p.areqs.zipIdx.filter (fun x => x.1.kind == kind && x.1.inst == inst && (reqClass p x.1).isSome)).map (fun x => (x.2, x.1))
  l.foldl (fun b x => match b with
    | none => some x
    | some y => if reqAhead p x.2 y.2 then some x else some y) none

/-- One grant unit given to a standing request, which leaves with its last one. -/
def grantUnit (p : Part) (i : Nat) (r : ArbReq) : Part :=
  let own := 1 ≤ ownTokens p r.kind r.inst r.vdid r.work
  let p1 := chargeUnits p r.kind r.inst r.vdid own 1
  { p1 with areqs := if r.units ≤ 1 then p1.areqs.eraseIdx i else p1.areqs.set i { r with units := r.units - 1 } }

/-! ## Paths (R14, R22) -/

/-- A place that data comes from or goes to: a cluster by index, or the system die. -/
abbrev Node := Option Nat

/-- Mesh links of a die from router a along x: direction 0 is +x, 1 is -x (R22, R260). -/
def meshX (d : Nat) : Nat → Nat → Nat → List Nat
  | 0, _, _ => []
  | n + 1, a, x1 =>
    if a % 8 < x1 then (d * 128 + a * 4) :: meshX d n (a + 1) x1
    else if x1 < a % 8 then (d * 128 + a * 4 + 1) :: meshX d n (a - 1) x1
    else []

/-- The same along y: direction 2 is +y, 3 is -y. -/
def meshY (d : Nat) : Nat → Nat → Nat → List Nat
  | 0, _, _ => []
  | n + 1, a, y1 =>
    if a / 8 < y1 then (d * 128 + a * 4 + 2) :: meshY d n (a + 8) y1
    else if y1 < a / 8 then (d * 128 + a * 4 + 3) :: meshY d n (a - 8) y1
    else []

/-- The mesh links from router a to router b of a die, first along x, then along y (R22). -/
def meshPath (d a b : Nat) : List (Nat × Nat) :=
  (meshX d 8 a (b % 8) ++ meshY d 4 (a / 8 * 8 + b % 8) (b / 8)).map (fun i => (2, i))

def absDiff (a b : Nat) : Nat := a - b + (b - a)

/-- The router at which a message leaves a die or enters it: of those that the gateway attaches to, the one nearest the
cluster (R22; log 4). -/
def gateRouter (a : Nat) : Nat :=
  let hops (g : Nat) : Nat := absDiff (a % 8) (g % 8) + absDiff (a / 8) (g / 8)
  [4, 27, 28].foldl (fun b g => if hops g < hops b then g else b) 3

/-- The link of die d to die e; 4 is the system die (R260). -/
def dieLink (d e : Nat) : Nat × Nat := (3, d * 4 + if e < d then e else e - 1)

/-- The arbiters of links that data passes on its way. -/
def pathOf (src dst : Node) : List (Nat × Nat) :=
  match src, dst with
  | none, none => []
  | some a, none => meshPath (a / 32) (a % 32) (gateRouter (a % 32)) ++ [dieLink (a / 32) 4]
  | none, some b => dieLink 4 (b / 32) :: meshPath (b / 32) (gateRouter (b % 32)) (b % 32)
  | some a, some b =>
    if a / 32 == b / 32 then meshPath (a / 32) (a % 32) (b % 32)
    else meshPath (a / 32) (a % 32) (gateRouter (a % 32)) ++ dieLink (a / 32) (b / 32) ::
      meshPath (b / 32) (gateRouter (b % 32)) (b % 32)

/-- The node at which a physical line is at home: its vault's cluster, or the system die (R89). -/
def homeNode (p : Part) (pa : Nat) : Node :=
  let k := memKey p pa
  if vaultBase ≤ k ∧ k < 0x6000000000 then some ((k - vaultBase) / 2 ^ 30) else none

/-- n bytes charged at every link of a path, in flits of 64 bytes (R260, R267). -/
def chargePath (p : Part) (v : BitVec 6) (w : Work) (src dst : Node) (n : Nat) : Part :=
  (pathOf src dst).foldl (fun p l => charge p l.1 l.2 v w ((n + 63) / 64)) p

/-- n bytes charged at the vault of their home, in units of 128 bytes; nothing for memory that is in no vault. -/
def chargeVault (p : Part) (v : BitVec 6) (w : Work) (home : Node) (n : Nat) : Part :=
  match home with
  | some k => charge p 1 k v w ((n + 127) / 128)
  | none => p

/-- n bytes moved between a cluster and the home of a physical address, the vault included (R267). -/
def chargeHome (p : Part) (v : BitVec 6) (w : Work) (c : Nat) (pa n : Nat) (toHome : Bool) : Part :=
  let h := homeNode p pa
  chargeVault (if toHome then chargePath p v w (some c) h n else chargePath p v w h (some c) n) v w h n

/-- The priority of a group's semantic work in class 4 (R264). -/
def groupWork (p : Part) (cgid : BitVec 32) : Work :=
  .semantic (((p.groups.find? (fun g => g.cgid == cgid)).map (fun g => g.lr.prio.val)).getD 0)

end Sys2Proof.Machine
end

