-- ==== Sys2Proof/Machine/Num.lean ====
section
/-! DEFINITION. Numbers and rounding (R50 to R61, R66, R171): exact values, decoding of every element type to an exact
value, and the one rounding of an exact value to each destination type under every rounding mode. -/

namespace Sys2Proof.Machine

open Sys2Proof

/-! ## Exact values -/

/-- A value before rounding. `fin neg m e` is ± m x 2^e (m = 0: a signed zero). `near neg m e` is a real strictly
between m x 2^e and (m + 1) x 2^e in magnitude: a quotient, a root, a power or a logarithm that no dyadic number equals,
known to at least 64 bits past its leading bit (R176). -/
inductive Num where
  | nan
  | inf (neg : Bool)
  | fin (neg : Bool) (m : Nat) (e : Int)
  | near (neg : Bool) (m : Nat) (e : Int)
  deriving DecidableEq, Repr

def Num.zero : Num := .fin false 0 0

def Num.ofInt (i : Int) : Num := .fin (decide (i < 0)) i.natAbs 0

def Num.isZero : Num → Bool
  | .fin _ m _ => m == 0
  | _ => false

def Num.isFinite : Num → Bool
  | .fin _ _ _ | .near _ _ _ => true
  | _ => false

/-- The sign; false of a NaN. -/
def Num.sign : Num → Bool
  | .nan => false
  | .inf n | .fin n _ _ | .near n _ _ => n

def Num.neg : Num → Num
  | .nan => .nan
  | .inf n => .inf (!n)
  | .fin n m e => .fin (!n) m e
  | .near n m e => .near (!n) m e

def Num.abs : Num → Num
  | .nan => .nan
  | .inf _ => .inf false
  | .fin _ m e => .fin false m e
  | .near _ m e => .near false m e

/-- x multiplied by 2^k, exactly. -/
def Num.scale (x : Num) (k : Int) : Num :=
  match x with
  | .fin n m e => .fin n m (e + k)
  | .near n m e => .near n m (e + k)
  | y => y

/-- The signed integer ± m x 2^(e - q), for q at most e. -/
def signedAt (neg : Bool) (m : Nat) (e q : Int) : Int :=
  let a : Int := (m * 2 ^ (e - q).toNat : Nat)
  if neg then -a else a

/-- Exact sum; an exact zero sum is +0, or -0 under rdn (R53). Sums of `near` values do not arise. -/
def Num.add (rdn : Bool) : Num → Num → Num
  | .nan, _ | _, .nan => .nan
  | .inf a, .inf b => if a == b then .inf a else .nan
  | .inf a, _ => .inf a
  | _, .inf b => .inf b
  | .near a m e, _ => .near a m e
  | _, .near b m e => .near b m e
  | .fin a m e, .fin b n f =>
    if m == 0 && n == 0 then .fin (if a == b then a else rdn) 0 0
    else if m == 0 then .fin b n f
    else if n == 0 then .fin a m e
    else
      let q := if e ≤ f then e else f
      let s := signedAt a m e q + signedAt b n f q
      if s == 0 then .fin rdn 0 0 else .fin (decide (s < 0)) s.natAbs q

/-- Exact product (R53: 0 x inf is NaN). -/
def Num.mul : Num → Num → Num
  | .nan, _ | _, .nan => .nan
  | .inf a, y => if y.isZero then .nan else .inf (a != y.sign)
  | x, .inf b => if x.isZero then .nan else .inf (x.sign != b)
  | .near a m e, y => .near (a != y.sign) m e
  | x, .near b m e => .near (x.sign != b) m e
  | .fin a m e, .fin b n f => .fin (a != b) (m * n) (e + f)

/-- Number of bits of m. -/
def bitLen (m : Nat) : Nat := if m == 0 then 0 else Nat.log2 m + 1

/-- Exact quotient, or the real between two dyadic numbers that it is. -/
def Num.div : Num → Num → Num
  | .nan, _ | _, .nan => .nan
  | .inf _, .inf _ => .nan
  | .inf a, y => .inf (a != y.sign)
  | x, .inf b => .fin (x.sign != b) 0 0
  | .near a m e, y => .near (a != y.sign) m e
  | x, .near b m e => .near (x.sign != b) m e
  | .fin a m e, .fin b n f =>
    if n == 0 then (if m == 0 then .nan else .inf (a != b))
    else if m == 0 then .fin (a != b) 0 0
    else
      let k := 96 + bitLen n
      let p := m * 2 ^ k
      let r : Int := e - f - (k : Int)
      if p % n == 0 then .fin (a != b) (p / n) r else .near (a != b) (p / n) r

/-- The greatest r with r * r at most n, decided bit by bit from bit k - 1 down. -/
def isqrtGo (n : Nat) : Nat → Nat → Nat
  | 0, r => r
  | k + 1, r =>
    let c := r + 2 ^ k
    isqrtGo n k (if c * c ≤ n then c else r)

def isqrt (n : Nat) : Nat := isqrtGo n (bitLen n / 2 + 1) 0

/-- vsqrt (R176). -/
def Num.sqrt : Num → Num
  | .nan => .nan
  | .inf neg => if neg then .nan else .inf false
  | .near _ _ _ => .nan
  | .fin neg m e =>
    if m == 0 then .fin neg 0 0
    else if neg then .nan
    else
      let odd := e % 2 != 0
      let a := (if odd then 2 * m else m) * 2 ^ 200
      let r := isqrt a
      let h : Int := (if odd then e - 1 else e) / 2 - 100
      if r * r == a then .fin false r h else .near false r h

/-- vrcp (R176). -/
def Num.rcp (x : Num) : Num := Num.div (.fin false 1 0) x

/-- vrsqrt (R176): both zeros as the table gives them, else 1 / sqrt x rounded once. -/
def Num.rsqrt : Num → Num
  | .nan => .nan
  | .inf neg => if neg then .nan else .fin false 0 0
  | .near _ _ _ => .nan
  | .fin neg m e =>
    if m == 0 then .inf neg
    else if neg then .nan
    else
      -- 1 / (m 2^e) = (2^(2k) / m) 2^(-e - 2k), with the exponent made even
      let odd := e % 2 != 0
      let k := 100 + bitLen m
      let m' := if odd then 2 * m else m
      let a := 2 ^ (2 * k) / m'
      let r := isqrt a
      let h : Int := -((if odd then e - 1 else e) / 2) - (k : Int)
      if r * r * m' == 2 ^ (2 * k) then .fin false r h else .near false r h

/-! ### Powers and logarithms (R176), by fixed-point series with a bound on their error -/

/-- Sum over i of t / (9^i (2i + 1)), from term i on. -/
def ln2Go : Nat → Nat → Nat → Nat → Nat
  | 0, _, _, acc => acc
  | k + 1, i, t, acc => ln2Go k (i + 1) (t / 9) (acc + t / (2 * i + 1))

/-- ln 2 in units of 2^-p, short by less than 2^12. -/
def ln2 (p : Nat) : Nat := ln2Go (p / 3 + 4) 0 (2 ^ (p + 1) / 3) 0

/-- Sum of y^i / i!, in units of 2^-p. -/
def expGo (p y : Nat) : Nat → Nat → Nat → Nat → Nat
  | 0, _, _, acc => acc
  | k + 1, i, t, acc => expGo p y k (i + 1) (t * y / 2 ^ p / (i + 1)) (acc + t)

/-- Sum of w^(2i+1) / (2i+1), in units of 2^-p; w2 is w squared. -/
def atanhGo (p w2 : Nat) : Nat → Nat → Nat → Nat → Nat
  | 0, _, _, acc => acc
  | k + 1, i, t, acc => atanhGo p w2 k (i + 1) (t * w2 / 2 ^ p) (acc + t / (2 * i + 1))

/-- The precisions tried in turn; each leaves an error below 2^16 units (log 12). -/
def precisions : List Nat := [320, 640, 1280]

/-- 2^f for the fraction f = fm / 2^fk, 0 < f < 1, as m with 2^f in (m, m + 1) x 2^-100. -/
def exp2Frac (fm fk : Nat) : List Nat → Nat
  | [] => 2 ^ 100
  | p :: ps =>
    let y := (fm * 2 ^ p / 2 ^ fk) * ln2 p / 2 ^ p
    let lo := expGo p y (p / 2) 0 (2 ^ p) 0
    let m := lo / 2 ^ (p - 100)
    if ps.isEmpty || m == (lo + 2 ^ 16) / 2 ^ (p - 100) then m else exp2Frac fm fk ps

/-- vexp2 (R176). -/
def Num.exp2 : Num → Num
  | .nan | .near _ _ _ => .nan
  | .inf neg => if neg then .fin false 0 0 else .inf false
  | .fin neg m e =>
    if m == 0 then .fin false 1 0
    else if (bitLen m : Int) + e > 14 then .near false 1 (if neg then -20000 else 20000)
    else
      let k := (-e).toNat
      let v : Int := signedAt neg m (if e < 0 then 0 else e) 0
      -- x = v / 2^k
      let n : Int := v / (2 ^ k : Nat)
      let fm := (v % (2 ^ k : Nat)).toNat
      if fm == 0 then .fin false 1 n else .near false (exp2Frac fm k precisions) (n - 100)

/-- log2 of 2^ex x (m / 2^(l-1)), not a power of two: its sign, and m' with the magnitude in (m', m' + 1) x 2^-160. -/
def log2At (m l : Nat) (ex : Int) : List Nat → Bool × Nat
  | [] => (false, 0)
  | p :: ps =>
    let h := 2 ^ (l - 1)
    let w := (m - h) * 2 ^ p / (m + h)
    let lnz := 2 * atanhGo p (w * w / 2 ^ p) (p / 3 + 4) 0 w 0
    let t : Int := ex * (2 ^ p : Nat) + (lnz * 2 ^ p / ln2 p : Nat)
    let a := t.natAbs
    let r := (a - 2 ^ 16) / 2 ^ (p - 160)
    if ps.isEmpty || r == (a + 2 ^ 16) / 2 ^ (p - 160) then (decide (t < 0), r) else log2At m l ex ps

/-- vlog2 (R176). -/
def Num.log2 : Num → Num
  | .nan | .near _ _ _ => .nan
  | .inf neg => if neg then .nan else .inf false
  | .fin neg m e =>
    if m == 0 then .inf true
    else if neg then .nan
    else
      let l := bitLen m
      let ex : Int := e + (l : Int) - 1
      if m == 2 ^ (l - 1) then .fin (decide (ex < 0)) ex.natAbs 0
      else
        let r := log2At m l ex precisions
        .near r.1 r.2 (-160)

/-! ## Comparison -/

/-- Order of two non-NaN values, zeros equal (R53). -/
def Num.cmp (x y : Num) : Ordering :=
  let key (z : Num) : Int × Nat × Int := match z with
    | .nan => (0, 0, 0)
    | .inf n => (if n then -2 else 2, 0, 0)
    | .fin n m e | .near n m e => if m == 0 then (0, 0, 0) else (if n then -1 else 1, m, e)
  let kx := key x
  let ky := key y
  if kx.1 != ky.1 then compare kx.1 ky.1
  else if kx.1 == 1 || kx.1 == -1 then
    let q := if kx.2.2 ≤ ky.2.2 then kx.2.2 else ky.2.2
    let a := kx.2.1 * 2 ^ (kx.2.2 - q).toNat
    let b := ky.2.1 * 2 ^ (ky.2.2 - q).toNat
    if kx.1 == 1 then compare a b else compare b a
  else .eq

def Num.lt (x y : Num) : Bool := x != .nan && y != .nan && Num.cmp x y == .lt
def Num.eqv (x y : Num) : Bool := x != .nan && y != .nan && Num.cmp x y == .eq

/-- min and max with -0 below +0 and NaN winning (R53). -/
def Num.min (x y : Num) : Num :=
  if x == .nan || y == .nan then .nan
  else if Num.cmp x y == .eq then (if x.sign then x else y)
  else if Num.cmp x y == .lt then x else y

def Num.max (x y : Num) : Num :=
  if x == .nan || y == .nan then .nan
  else if Num.cmp x y == .eq then (if x.sign then y else x)
  else if Num.cmp x y == .lt then y else x

/-! ## Rounding -/

/-- Where a magnitude falls among the multiples of 2^q: the multiple at or below it, whether it equals that multiple,
how the rest compares with half a unit, and floor(rest x 2^24) (R57). -/
structure Cut where
  lo : Nat
  exact : Bool
  half : Ordering
  d : Nat
  deriving DecidableEq, Repr

/-- The cut of m x 2^e (or of the real just above it, `sticky`) at unit 2^q. -/
def cutAt (m : Nat) (sticky : Bool) (e q : Int) : Cut :=
  if q ≤ e then ⟨m * 2 ^ (e - q).toNat, !sticky, .lt, 0⟩
  else
    let k := (q - e).toNat
    if bitLen m + 32 < k then ⟨0, m == 0 && !sticky, .lt, 0⟩
    else
      let r := m % 2 ^ k
      let h := if 2 * r == 2 ^ k && sticky then Ordering.gt else compare (2 * r) (2 ^ k)
      ⟨m / 2 ^ k, r == 0 && !sticky, h, r * 2 ^ 24 / 2 ^ k⟩

/-- Whether the neighbour away from zero is taken (R53, R55, R57, R59), for a value that is not representable. -/
def takeHi (rm : Rm) (neg loOdd : Bool) (half : Ordering) (d rnd : Nat) : Bool :=
  match rm with
  | .rne | .dyn => half == .gt || (half == .eq && loOdd)
  | .rtz => false
  | .rdn => neg
  | .rup => !neg
  | .rna => half != .lt
  | .rs => decide (rnd < d)

def Cut.pick (c : Cut) (rm : Rm) (neg : Bool) (rnd : Nat) : Nat :=
  if c.exact then c.lo
  else if takeHi rm neg (c.lo % 2 == 1) c.half c.d rnd then c.lo + 1 else c.lo

/-- An IEEE format: precision with the hidden bit, least exponent, greatest exponent (R53). -/
structure FloatFmt where
  prec : Nat
  emin : Int
  emax : Int
  deriving DecidableEq, Repr

def fmtF32 : FloatFmt := ⟨24, -126, 127⟩
def fmtBf16 : FloatFmt := ⟨8, -126, 127⟩
def fmtF16 : FloatFmt := ⟨11, -14, 15⟩

/-- Code of +infinity. -/
def FloatFmt.infBits (f : FloatFmt) : Nat := (f.emax - f.emin + 2).toNat * 2 ^ (f.prec - 1)
/-- Weight of the sign bit. -/
def FloatFmt.signBit (f : FloatFmt) : Nat := f.infBits + 2 ^ (f.prec - 1)
/-- The default NaN (R53). -/
def FloatFmt.nanBits (f : FloatFmt) : Nat := f.infBits + 2 ^ (f.prec - 2)

/-- What an overflow from finite operands gives (R53). -/
def FloatFmt.overflow (f : FloatFmt) (rm : Rm) (sat neg : Bool) : Nat :=
  let toInf := match rm with
    | .rne | .rna | .rs | .dyn => true
    | .rtz => false
    | .rdn => neg
    | .rup => !neg
  if sat || !toInf then f.infBits - 1 else f.infBits

/-- The rounded magnitude code of m x 2^e; none where it overflows (R53, R57). -/
def FloatFmt.roundRaw (f : FloatFmt) (rm : Rm) (neg : Bool) (m : Nat) (sticky : Bool) (e : Int) (rnd : Nat) : Option Nat :=
  if m == 0 && !sticky then some 0
  else
    let qmin := f.emin - (f.prec : Int) + 1
    let qv := e + (bitLen m : Int) - (f.prec : Int)
    let q := if qv < qmin then qmin else qv
    let r := (cutAt m sticky e q).pick rm neg rnd
    if q - qmin > f.emax - f.emin then none
    else
      let bits := (q - qmin).toNat * 2 ^ (f.prec - 1) + r
      if bits < f.infBits then some bits else none

/-- The rounded magnitude code, an overflow included (R53). -/
def FloatFmt.roundMag (f : FloatFmt) (rm : Rm) (sat neg : Bool) (m : Nat) (sticky : Bool) (e : Int) (rnd : Nat) : Nat :=
  (f.roundRaw rm neg m sticky e rnd).getD (f.overflow rm sat neg)

/-- An exact value rounded once to an IEEE format. -/
def FloatFmt.encode (f : FloatFmt) (rm : Rm) (sat : Bool) (rnd : Nat) (x : Num) : Nat :=
  match x with
  | .nan => f.nanBits
  | .inf neg => f.infBits + (if neg then f.signBit else 0)
  | .fin neg m e => f.roundMag rm sat neg m false e rnd + (if neg then f.signBit else 0)
  | .near neg m e => f.roundMag rm sat neg m true e rnd + (if neg then f.signBit else 0)

/-- The exact value of an IEEE code. -/
def FloatFmt.decode (f : FloatFmt) (b : Nat) : Num :=
  let neg := decide (f.signBit ≤ b)
  let mag := b % f.signBit
  let ex := mag / 2 ^ (f.prec - 1)
  let fr := mag % 2 ^ (f.prec - 1)
  if mag > f.infBits then .nan
  else if mag == f.infBits then .inf neg
  else if ex == 0 then .fin neg fr (f.emin - (f.prec : Int) + 1)
  else .fin neg (2 ^ (f.prec - 1) + fr) (f.emin - (f.prec : Int) + (ex : Int))

/-! ## Tapered formats (R59 to R61) -/

/-- The length of the run of bits equal to bit i, from bit i down. -/
def regimeRun (mag : Nat) (b : Bool) : Nat → Nat
  | 0 => 0
  | i + 1 => if mag.testBit i == b then regimeRun mag b i + 1 else 0

/-- The value of a nonzero magnitude field of M bits, as m and e (R59). -/
def taperValue (mBits mag : Nat) : Nat × Int :=
  let one := mag.testBit (mBits - 1)
  let n := regimeRun mag one mBits
  let k : Int := if one then (n : Int) - 1 else -(n : Int)
  let left := mBits - n - 1              -- bits after the run and the ending bit
  let ebit := if left == 0 then 0 else if mag.testBit (left - 1) then 1 else 0
  let fBits := left - 1
  let fr := mag % 2 ^ fBits
  (2 ^ fBits + fr, 2 * k + ebit - (fBits : Int))

def taperDecode (mBits b : Nat) : Num :=
  let mag := b % 2 ^ mBits
  let neg := b.testBit mBits
  if mag == 0 then (if neg then .nan else .zero)
  else
    let v := taperValue mBits mag
    .fin neg v.1 v.2

/-- The greatest magnitude code whose value is at most x, decided bit by bit; x is positive and at least the minimum. -/
def taperFloor (mBits : Nat) (x : Num) : Nat → Nat → Nat
  | 0, r => r
  | k + 1, r =>
    let c := r + 2 ^ k
    let v := taperValue mBits c
    taperFloor mBits x k (if Num.cmp (.fin false v.1 v.2) x == .gt then r else c)

/-- Encoding of a real to a tapered type (R59), with `rnd` the 24 random bits of R57. -/
def taperEncode (mBits : Nat) (rm : Rm) (rnd : Nat) (x : Num) : Nat :=
  let signed (neg : Bool) (mag : Nat) : Nat := if neg then 2 ^ mBits + mag else mag
  let top := 2 ^ mBits - 1
  let go (neg : Bool) (m : Nat) (sticky : Bool) (e : Int) : Nat :=
    let a := Num.fin false m e
    let vMax := taperValue mBits top
    let vMin := taperValue mBits 1
    if Num.cmp a (.fin false vMax.1 vMax.2) != .lt then signed neg top
    else if Num.cmp a (.fin false vMin.1 vMin.2) == .lt then signed neg 1
    else
      let lo := taperFloor mBits a mBits 0
      let l := taperValue mBits lo
      let h := taperValue mBits (lo + 1)
      let q := if e ≤ l.2 then e else l.2
      let q := if q ≤ h.2 then q else h.2
      let xi := m * 2 ^ (e - q).toNat
      let li := l.1 * 2 ^ (l.2 - q).toNat
      let hi := h.1 * 2 ^ (h.2 - q).toNat
      if xi == li && !sticky then signed neg lo
      else
        let half := if 2 * xi == li + hi && sticky then Ordering.gt else compare (2 * xi) (li + hi)
        let d := (xi - li) * 2 ^ 24 / (hi - li)
        signed neg (if takeHi rm neg (lo % 2 == 1) half d rnd then lo + 1 else lo)
  match x with
  | .nan => 2 ^ mBits
  | .inf neg => signed neg top
  | .fin neg m e => if m == 0 then 0 else go neg m false e
  | .near neg m e => go neg m true e

/-! ## Integers (R52, R54) -/

/-- An exact integer reduced to w bits: wrapped, or with `sat` brought to the nearest end of the type's range. -/
def intEncode (w : Nat) (signed sat : Bool) (x : Int) : Nat :=
  let lo : Int := if signed then -(2 ^ (w - 1) : Nat) else 0
  let hi : Int := if signed then (2 ^ (w - 1) : Nat) - 1 else (2 ^ w : Nat) - 1
  let y := if sat then (if x < lo then lo else if hi < x then hi else x) else x
  (y % (2 ^ w : Nat)).toNat

def intDecode (w : Nat) (signed : Bool) (b : Nat) : Int :=
  let c := b % 2 ^ w
  if signed && c.testBit (w - 1) then (c : Int) - (2 ^ w : Nat) else (c : Int)

/-- An exact value rounded to an integer (R54); none for NaN and the infinities. -/
def Num.toIntRm (rm : Rm) (rnd : Nat) : Num → Option Int
  | .fin neg m e =>
    let r : Int := ((cutAt m false e 0).pick rm neg rnd : Nat)
    some (if neg then -r else r)
  | .near neg m e =>
    let r : Int := ((cutAt m true e 0).pick rm neg rnd : Nat)
    some (if neg then -r else r)
  | _ => none

/-- Quotient and remainder of R52. -/
def intQuot (w : Nat) (signed : Bool) (x y : Int) : Int :=
  if y == 0 then
    (if signed then (if x < 0 then -(2 ^ (w - 1) : Nat) else (2 ^ (w - 1) : Nat) - 1) else (2 ^ w : Nat) - 1)
  else Int.tdiv x y

def intRem (x y : Int) : Int := if y == 0 then x else Int.tmod x y

end Sys2Proof.Machine

namespace Sys2Proof

/-! ## Element types (R50) -/

/-- Width of an element in a vector register (R50, R168). -/
def ElemTy.regW : ElemTy → Nat
  | .i8 | .n8 | .t8 | .t6 | .i4 | .n4 | .e8 => 8
  | .i16 | .n16 | .bf16 | .f16 => 16
  | .i32 | .n32 | .f32 => 32
  | .i64 | .n64 => 64

/-- Width of an element in memory (R50). -/
def ElemTy.memW : ElemTy → Nat
  | .t6 => 6
  | .i4 | .n4 => 4
  | t => t.regW

/-- Two's complement types; e8 reads as i8 (R181). -/
def ElemTy.signed : ElemTy → Bool
  | .i8 | .i16 | .i32 | .i64 | .i4 | .e8 => true
  | _ => false

/-- Bits of the integer range of an integer type: 4 for i4 and n4, held in a byte. -/
def ElemTy.intW : ElemTy → Nat
  | .i4 | .n4 => 4
  | t => t.regW

/-- The code of an element type (R50). -/
def ElemTy.fromCode (c : BitVec 4) : ElemTy :=
  match c.toNat with
  | 0 => .i8 | 1 => .n8 | 2 => .i16 | 3 => .n16 | 4 => .i32 | 5 => .n32 | 6 => .i64 | 7 => .n64
  | 8 => .f32 | 9 => .bf16 | 10 => .f16 | 11 => .t8 | 12 => .t6 | 13 => .i4 | 14 => .n4 | _ => .e8

end Sys2Proof

namespace Sys2Proof.Machine

open Sys2Proof

/-- The exact value of a register element of any type (R50, R54, R59). -/
def decElem (t : ElemTy) (b : Nat) : Num :=
  match t with
  | .f32 => fmtF32.decode (b % 2 ^ 32)
  | .bf16 => fmtBf16.decode (b % 2 ^ 16)
  | .f16 => fmtF16.decode (b % 2 ^ 16)
  | .t8 => taperDecode 7 (b % 2 ^ 8)
  | .t6 => taperDecode 5 (b % 2 ^ 6)
  | t => Num.ofInt (intDecode t.regW t.signed b)

/-- The integer value of a register element of an integer type, or of e8 read as i8 (R181). The byte of an i4 or n4 element is
read whole, as an 8-bit integer, whether or not it is a 4-bit extension (DESIGN CHOICE: R50 is silent on other bytes; log 50). -/
def decInt (t : ElemTy) (b : Nat) : Int := intDecode t.regW t.signed b

/-- An integer written to an integer type: i4 and n4 are held extended in their byte (R50, R181). -/
def encInt (t : ElemTy) (sat : Bool) (x : Int) : Nat :=
  match t with
  | .i4 => intEncode 8 true false (intDecode 4 true (intEncode 4 true sat x))
  | .n4 => intEncode 4 false sat x
  | t => intEncode t.regW t.signed sat x

/-- An exact value rounded once to the destination type (R53, R54, R57, R59, R171). -/
def encElem (t : ElemTy) (rm : Rm) (sat : Bool) (rnd : Nat) (x : Num) : Nat :=
  match t with
  | .f32 => fmtF32.encode rm sat rnd x
  | .bf16 => fmtBf16.encode rm sat rnd x
  | .f16 => fmtF16.encode rm sat rnd x
  | .t8 => taperEncode 7 rm rnd x
  | .t6 => taperEncode 5 rm rnd x
  | t =>
    match x with
    | .nan => 0
    | .inf neg => encInt t true (if neg then -(2 ^ 64 : Nat) else (2 ^ 64 : Nat))
    | y => encInt t true ((y.toIntRm rm rnd).getD 0)

/-- The IEEE format of a floating type. -/
def fmtOf : ElemTy → Option FloatFmt
  | .f32 => some fmtF32
  | .bf16 => some fmtBf16
  | .f16 => some fmtF16
  | _ => none

/-- A scaled value rounded to the destination type: an overflow gives an infinity under every rm, and the largest value under
.sat (R63, R181, R182). -/
def encScaled (t : ElemTy) (rm : Rm) (sat : Bool) (rnd : Nat) (x : Num) : Nat :=
  let exceeds (f : FloatFmt) : Bool := match x with
    | .fin neg m e => (f.roundRaw rm neg m false e rnd).isNone
    | .near neg m e => (f.roundRaw rm neg m true e rnd).isNone
    | _ => false
  encElem t rm sat rnd (if !sat && (fmtOf t).any exceeds then .inf x.sign else x)

/-! ## Mixing and stochastic rounding (R57, R58) -/

/-- The mixing function of R58. -/
def mix (key idx : BitVec 32) : BitVec 32 :=
  let x := idx ^^^ key
  let x := x ^^^ (x >>> 16)
  let x := x * 0x6A5D39E3#32
  let x := x ^^^ (x >>> 15)
  let x := x * 0x9B1C4F2D#32
  x ^^^ (x >>> 16)

/-- The key of stochastic rounding (R57). -/
def rsKey (seed : Word) : BitVec 32 := seed.extractLsb' 0 32 ^^^ seed.extractLsb' 32 32

/-- The 24 random bits of R57 for an index. -/
def rsBits (seed : Word) (idx : Nat) : Nat :=
  ((mix (rsKey seed) (BitVec.ofNat 32 idx)).extractLsb' 8 24).toNat

end Sys2Proof.Machine
end

