-- ==== Sys2Proof/Machine/Coherence.lean ====
section
/-! DEFINITION. How an access to generic memory is performed at its cluster cache: line states (R90, R91), tokens (R93,
R94), victims (R268, R269), the update-only state and its merges (R96 to R101), the write-combining state (R102, R103), what
each is charged (R267), and the checks of an access with its walk (R279 to R284). The bytes of every line in S, E or M stand
in `State.mem`; only U partials and W bytes stand in the caches. -/

namespace Sys2Proof.Machine

open Sys2Proof

/-! ## Clusters -/

def getCl (s : State) (c : Fin 128) : Cluster := s.clusters[c]

def setCl (s : State) (c : Fin 128) (x : Cluster) : State := { s with clusters := s.clusters.set c x }

def updCl (s : State) (c : Fin 128) (f : Cluster → Cluster) : State := setCl s c (f (getCl s c))

def mapCl (s : State) (f : Cluster → Cluster) : State := { s with clusters := s.clusters.map f }

/-- The cluster of a core (R3). -/
def coreCluster (i : Fin 1024) : Fin 128 := ⟨i.val / 8, by omega⟩

/-- The die of a cluster (R3). -/
def clusterDie (c : Fin 128) : Fin 4 := ⟨c.val / 32, by omega⟩

/-! ## Operators of the update-only state (R96) -/

def utagW : UTag → Nat
  | .addI64 | .andB64 | .orB64 | .xorB64 => 64
  | _ => 32

def utagIdentity : UTag → Nat
  | .addI32 | .addI64 | .maxN32 | .orB64 | .xorB64 => 0
  | .addF32 => 0x80000000
  | .minI32 => 0x7FFFFFFF
  | .maxI32 => 0x80000000
  | .minN32 => 0xFFFFFFFF
  | .minF32 => 0x7F800000
  | .maxF32 => 0xFF800000
  | .andB64 => 0xFFFFFFFFFFFFFFFF

/-- The combine rule op(l, r) of a tag. -/
def utagOp (t : UTag) (l r : Nat) : Nat :=
  let il := intDecode 32 true l
  let ir := intDecode 32 true r
  let fl := fmtF32.decode (l % 2 ^ 32)
  let fr := fmtF32.decode (r % 2 ^ 32)
  match t with
  | .addI32 => (l + r) % 2 ^ 32
  | .addI64 => (l + r) % 2 ^ 64
  | .addF32 => fmtF32.encode .rne false 0 (Num.add false fl fr)
  | .minI32 => if il ≤ ir then l else r
  | .maxI32 => if ir ≤ il then l else r
  | .minN32 => if l ≤ r then l else r
  | .maxN32 => if r ≤ l then l else r
  | .minF32 => fmtF32.encode .rne false 0 (Num.min fl fr)
  | .maxF32 => fmtF32.encode .rne false 0 (Num.max fl fr)
  | .andB64 => l &&& r
  | .orB64 => l ||| r
  | .xorB64 => l ^^^ r

/-! ## Lines -/

def lineOf (pa : Nat) : Nat := pa / 128

/-- Byte image of a line with the n bytes at offset `off` replaced by the low bytes of v. -/
def lineSet (l : BitVec 1024) (off n v : Nat) : BitVec 1024 :=
  (l &&& ~~~(BitVec.ofNat 1024 ((2 ^ (8 * n) - 1) * 2 ^ (8 * off)))) ||| BitVec.ofNat 1024 (v % 2 ^ (8 * n) * 2 ^ (8 * off))

def lineGet (l : BitVec 1024) (off n : Nat) : Nat := l.toNat / 2 ^ (8 * off) % 2 ^ (8 * n)

/-- The byte mask of n bytes at an offset of a line. -/
def byteMask (off n : Nat) : BitVec 128 := BitVec.ofNat 128 ((2 ^ n - 1) * 2 ^ off)

/-- A poison mark of a sector of generic memory set or cleared; the sector is named by a physical address in it. -/
def setPoison (s : State) (pa : Nat) : State := { s with poison := natInsert s.poison (memKey s.part pa / 32) }
def clearPoison (s : State) (pa : Nat) : State := { s with poison := natErase s.poison (memKey s.part pa / 32) }

def findURec (c : Coherence) (line : Nat) : Option URec := c.urecs.find? (fun r => r.line == line)

def findWLine (c : Cluster) (line : Nat) : Option WLine := c.ws.find? (fun w => w.line == line)

def findLine (c : Cluster) (line : Nat) : Option CLine := c.lines.find? (fun l => l.line == line)

/-! ## Bonded DRAM under two addresses (R69) -/

/-- Whether some cache holds a line in M. -/
def dirtyAt (s : State) (line : Nat) : Bool := s.clusters.toList.any (fun x => x.lines.any (fun l => l.line == line && l.st == .m))

def findDirty (c : Coherence) (line : Nat) : Option AliasLine := c.dirty.find? (fun x => x.line == line)

def dropDirty (c : Coherence) (line : Nat) : Coherence := { c with dirty := c.dirty.filter (fun x => x.line != line) }

def putDirty (c : Coherence) (x : AliasLine) : Coherence := { c with dirty := c.dirty.filter (fun y => y.line != x.line) ++ [x] }

/-- The other window's number of a line of bonded DRAM. -/
def otherLine (s : State) (line : Nat) : Option Nat := (otherName s.part (line * 128)).map lineOf

/-- The bytes of a line as memory holds them. -/
def lineBits (s : State) (line : Nat) : BitVec 1024 := BitVec.ofNat 1024 (s.mem.readN (memKey s.part (line * 128)) 128)

def putLine (s : State) (line : Nat) (b : BitVec 1024) : State :=
  { s with mem := s.mem.writeN (memKey s.part (line * 128)) 128 b.toNat }

/-- A line that has left M: its own bytes, where they stood apart, are what DRAM holds. -/
def settleDirty (s : State) (line other : Nat) : State :=
  match findDirty s.coh line with
  | none => s
  | some x =>
    if dirtyAt s line then s
    else
      let s1 := { s with coh := dropDirty s.coh line }
      match x.own, findDirty s1.coh other with
      | none, _ => s1
      | some b, some y => if dirtyAt s1 other then { s1 with coh := putDirty s1.coh { y with home := b } } else putLine s1 line b
      | some b, none => putLine s1 line b

/-- `State.mem` made to hold what an address of a line reaches: the line's own bytes where it is dirty, else what DRAM holds; the
dirty bytes under the other window's address are kept apart meanwhile (R69). -/
def openAlias (s : State) (line other : Nat) : State :=
  let s1 := settleDirty (settleDirty s line other) other line
  let now := lineBits s1 line
  match findDirty s1.coh line, findDirty s1.coh other with
  | some x, o =>
    match x.own, o with
    | some b, some y => putLine { s1 with coh := putDirty (putDirty s1.coh ⟨line, y.home, none⟩) { y with own := some now } } line b
    | some b, none => putLine { s1 with coh := putDirty s1.coh ⟨line, now, none⟩ } line b
    | none, _ => s1
  | none, some y => if y.own.isSome then s1 else putLine { s1 with coh := putDirty s1.coh { y with own := some now } } line y.home
  | none, none => s1

/-- Whether the bytes of a line are, or have been, dirty under the other window's address (R69). -/
def aliasDirty (s : State) (line : Nat) : Bool :=
  match otherLine s line with
  | some o => (findDirty s.coh o).isSome || (findDirty s.coh line).any (fun x => x.own.isSome)
  | none => false

/-- An access at a physical address is about to be made: `State.mem` holds what that address reaches (R69). -/
def aliasRead (s : State) (pa : Nat) : State :=
  match otherLine s (lineOf pa) with
  | some o => if aliasDirty s (lineOf pa) then openAlias s (lineOf pa) o else s
  | none => s

/-- A line of bonded DRAM is about to turn dirty: what DRAM holds is kept (R69). -/
def noteDirty (s : State) (line : Nat) : State :=
  if (otherLine s line).isNone || ((findDirty s.coh line).isSome && dirtyAt s line) then s
  else { s with coh := putDirty s.coh ⟨line, lineBits s line, none⟩ }

/-! ## Merges (R98, R99) -/

/-- The tree of R98 over slots, where a slot without a partial is the identity and so leaves the other side as it is. -/
def utree (op : Nat → Nat → Nat) (leaf : Nat → Option Nat) : Nat → Nat → Option Nat
  | 0, i => leaf i
  | l + 1, i =>
    match utree op leaf l (2 * i), utree op leaf l (2 * i + 1) with
    | none, r => r
    | l', none => l'
    | some a, some b => some (op a b)

/-- The partials of a line: those that answered a collect already, and those of the slots still present. -/
def partials (s : State) (r : URec) : List (Nat × ULine) :=
  (r.merging.getD []) ++ (List.finRange 128).filterMap (fun c =>
    if r.presence.getLsbD c.val then ((getCl s c).us.find? (fun u => u.line == r.line)).map (fun u => (c.val, u)) else none)

/-- The memory step of one element j of a line (R99). -/
def mergeElem (t : UTag) (ps : List (Nat × ULine)) (m : Nat) (j : Nat) : Option Nat :=
  let w := utagW t / 8
  if ps.any (fun p => p.2.touched.getLsbD (j * w)) then
    let leaf (i : Nat) : Option Nat := (ps.find? (fun p => p.1 == i)).map (fun p => lineGet p.2.data (j * w) w)
    match utree (utagOp t) leaf 7 0 with
    | some root => some (utagOp t m root)
    | none => none
  else none

/-- The memory step of a line's elements below n. -/
def mergeElems (t : UTag) (ps : List (Nat × ULine)) (key : Nat) (m0 : Memory) : Nat → Memory → Memory
  | 0, m => m
  | n + 1, m =>
    let w := utagW t / 8
    let u := mergeElems t ps key m0 n m
    match mergeElem t ps (m0.readN (key + n * w) w) n with
    | some v => u.writeN (key + n * w) w v
    | none => u

/-- Sectors of a line that a failed partial poisons (R99, R374); with `lost`, every sector (R379). -/
def mergePoison (ps : List (Nat × ULine)) (lost : Bool) (q : Nat) : Bool :=
  lost || ps.any (fun p => p.2.poison.getLsbD q)

/-- The part's books changed. -/
def mapPart (s : State) (f : Part → Part) : State := { s with part := f s.part }

/-- A merge charged to the virtual device whose access began it: each partial's way to the home, and the memory step
(R267). -/
def chargeMerge (p : Part) (v : BitVec 6) (line : Nat) (slots : List Nat) : Part :=
  let h := homeNode p (line * 128)
  chargeVault (slots.foldl (fun q c => chargePath q v .coherence (some c) h 128) p) v .coherence h 128

/-- A merge carried out: the memory step, the record cleared, every partial gone (R98, R99). The virtual device whose access
began the merge is charged, or `who` where it begins here; nobody for a handover (R267). -/
def mergeWith (s' : State) (r : URec) (lost : Bool) (who : Option (BitVec 6)) : State :=
  let s := aliasRead s' (r.line * 128)
  let ps : List (Nat × ULine) := partials s r
  let key := memKey s.part (r.line * 128)
  let m := mergeElems r.tag ps key s.mem (1024 / utagW r.tag) s.mem
  let pz := (List.range 4).foldl (fun l q => if mergePoison ps lost q then natInsert l (key / 32 + q) else l) s.poison
  let s0 := match r.beginner.or who with
    | some v => mapPart s (fun p => chargeMerge p v r.line (ps.map Prod.fst))
    | none => s
  let s1 := { s0 with mem := m, poison := pz, coh := { s.coh with urecs := s.coh.urecs.filter (fun x => x.line != r.line) } }
  wake (mapCl s1 (fun c => { c with us := c.us.filter (fun u => u.line != r.line) })) false key 128

/-- Begin and finish the merge of a line held in U; nothing for any other line. -/
def mergeLine (s : State) (line : Nat) (who : Option (BitVec 6) := none) : State :=
  match findURec s.coh line with
  | some r => mergeWith s r false who
  | none => s

/-! ## The write-combining state (R102) -/

/-- Bytes below n of a W line written to memory under its mask. -/
def wBytes (w : WLine) (key : Nat) : Nat → Memory → Memory
  | 0, m => m
  | n + 1, m =>
    let u := wBytes w key n m
    if w.mask.getLsbD n then u.write (key + n) (BitVec.ofNat 8 (lineGet w.data n 1)) else u

/-- Overlapping bytes of another cluster's W line that this write decides against it: the choice is open, byte by byte
(R102; log 2). -/
def wOverlap (free : Nat) (mask : BitVec 128) (w : WLine) : WLine :=
  let lose := (List.range 128).foldl (fun (m : BitVec 128) i =>
    if mask.getLsbD i && w.mask.getLsbD i && Config.freeBit (free + i) then m ||| BitVec.twoPow 128 i else m) 0
  if mask &&& w.mask == 0 then w else { w with mask := w.mask &&& ~~~lose }

/-! ## Tokens (R93, R94) -/

def freshTok (line : Nat) : TokRec := ⟨line, 16, Vector.replicate 5 0, 5⟩

def findTok (c : Coherence) (line : Nat) : TokRec := (c.toks.find? (fun t => t.line == line)).getD (freshTok line)

/-- A record put back; a line wholly at its home is not listed. -/
def setTok (c : Coherence) (t : TokRec) : Coherence :=
  let rest := c.toks.filter (fun u => u.line != t.line)
  { c with toks := if t = freshTok t.line then rest else rest ++ [t] }

/-- What a place holds: gateways 0 to 4, home 5. -/
def tokAt (t : TokRec) (place : Nat) : Nat := if place = 5 then t.home else (t.gw[place]?).getD 0

def setTokAt (t : TokRec) (place n : Nat) : TokRec :=
  if place = 5 then { t with home := n } else { t with gw := t.gw.setIfInBounds place n }

/-- All sixteen tokens at one place. -/
def allTokens (line place : Nat) : TokRec :=
  { setTokAt ⟨line, 0, Vector.replicate 5 0, place⟩ place 16 with owner := place }

/-- A transient read answered by the holder of the owner token (R94). -/
def readToken (t : TokRec) (g : Nat) : TokRec :=
  if 1 ≤ tokAt t g then t
  else
    let o := t.owner
    let n := tokAt t o
    if 2 ≤ n then setTokAt (setTokAt t o (n - 1)) g (tokAt t g + 1)
    else { setTokAt (setTokAt t o 0) g (tokAt t g + n) with owner := g }

/-- Every cluster of a die but one gives up a line in S, E or M. -/
def dieDrop (s : State) (g : Nat) (line : Nat) (but : Option (Fin 128)) : State :=
  { s with clusters := Vector.ofFn (fun c : Fin 128 =>
      if (clusterDie c).val == g && but != some c then
        { getCl s c with lines := (getCl s c).lines.filter (fun l => l.line != line) }
      else getCl s c) }

/-- A snoop read at a die: its E and M copies become S (R91). -/
def dieShare (s : State) (g : Nat) (line : Nat) : State :=
  { s with clusters := Vector.ofFn (fun c : Fin 128 =>
      if (clusterDie c).val == g then
        { getCl s c with lines := (getCl s c).lines.map (fun l => if l.line == line then { l with st := .s } else l) }
      else getCl s c) }

/-- Whether some cluster of a die holds the line in S, E or M. -/
def dieHolds (s : State) (g : Nat) (line : Nat) : Bool :=
  (List.finRange 128).any (fun d => (clusterDie d).val == g && (findLine (getCl s d) line).isSome)

/-- Whether some cluster of a die other than c holds the line. -/
def otherHolds (s : State) (c : Fin 128) (line : Nat) : Bool :=
  (List.finRange 128).any (fun d => d != c && clusterDie d == clusterDie c && (findLine (getCl s d) line).isSome)

/-- A die that holds no copy of a line sends its tokens home (R94). -/
def giveUp (s : State) (g : Nat) (line : Nat) : State :=
  if dieHolds s g line then s
  else
    let t := findTok s.coh line
    let t1 := setTokAt (setTokAt t g 0) 5 (t.home + tokAt t g)
    { s with coh := setTok s.coh (if t.owner = g then { t1 with owner := 5 } else t1) }

/-- Every copy of a line in S, E or M goes to I, and every token to its home (R97, R102). -/
def gather (s : State) (line : Nat) : State :=
  let s1 := mapCl s (fun x => { x with lines := x.lines.filter (fun l => l.line != line) })
  { s1 with coh := setTok s1.coh (freshTok line) }

/-! ## What a line's movement is charged (R267) -/

/-- The cluster that supplies a line's data by a snoop: one that holds it in E or M, else one of the die with the owner
token (R92, R94). -/
def supplier (s : State) (line : Nat) : Option (Fin 128) :=
  let holds (p : CLine → Bool) (c : Fin 128) : Bool := (getCl s c).lines.any (fun l => l.line == line && p l)
  match (List.finRange 128).find? (holds (fun l => l.st != .s)) with
  | some c => some c
  | none =>
    let o := (findTok s.coh line).owner
    (List.finRange 128).find? (fun c => (clusterDie c).val == o && holds (fun _ => true) c)

/-- A line brought to a cluster: from the cluster that supplies it, in class 1 but for advice, or from its home. -/
def chargeFill (s : State) (c : Fin 128) (v : BitVec 6) (w : Work) (line : Nat) : State :=
  match supplier s line with
  | some d => mapPart s (fun p => chargePath p v (if w == .advice then w else .coherence) (some d.val) (some c.val) 128)
  | none => mapPart s (fun p => chargeHome p v w c.val (line * 128) 128 false)

/-- A line written home for its owner tag, without waiting. -/
def chargeBack (s : State) (c : Fin 128) (v : BitVec 6) (line : Nat) : State :=
  mapPart s (fun p => chargeHome p v .coherence c.val (line * 128) 128 true)

/-! ## Lines given up -/

/-- A cluster gives up a line in S, E or M, a dirty one written back; the last of its die sends the die's tokens home
(R94). -/
def dropLine (s : State) (c : Fin 128) (line : Nat) : State :=
  let s0 := match findLine (getCl s c) line with
    | some l => if l.st == .m then chargeBack s c l.vdid line else s
    | none => s
  giveUp (updCl s0 c (fun x => { x with lines := x.lines.filter (fun l => l.line != line) })) (clusterDie c).val line

/-- A W line written to the home as a byte-masked write: a line in U is merged first, every token gathered; failing sectors
are poisoned in its mask (R98, R102, R374). -/
def flushHome (s : State) (c : Fin 128) (line : Nat) : State :=
  match findWLine (getCl s c) line with
  | none => s
  | some w =>
    let s0 := aliasRead (chargeBack (gather (mergeLine s line (some w.vdid)) line) c w.vdid line) (line * 128)
    let key := memKey s0.part (line * 128)
    let pz := (List.range 4).foldl (fun l q =>
      let l := if w.clean.getLsbD q then natErase l (key / 32 + q) else l
      if w.poison.getLsbD q then natInsert l (key / 32 + q) else l) s0.poison
    let s1 := updCl s0 c (fun x => { x with ws := x.ws.filter (fun y => y.line != line) })
    let others := s1.clusters.toList.any (fun x => x.ws.any (fun y => y.line == line && y.mask &&& w.mask != 0))
    let s2 := if others then
        { mapCl s1 (fun x => { x with ws := x.ws.map (fun y => if y.line == line then wOverlap s1.free w.mask y else y) })
          with free := s1.free + 128 }
      else s1
    wake { s2 with mem := wBytes w key 128 s2.mem, poison := pz } false key 128

/-! ## Recency and victims (R268, R269) -/

def cacheWays (c : Cluster) : Nat :=
  ((List.range 32).filter (fun b => c.cbmode.extractLsb' (2 * b) 2 == 0 && !c.busy.getLsbD b)).length

def setOf (line : Nat) : Nat := line % 1024

/-- Whether a virtual device holds a core of a cluster. -/
def vdInCluster (d : Vd) (c : Nat) : Bool :=
  (d.excl ||| d.shared).extractLsb' (8 * c) 8 != 0

/-- The effective way quota of a virtual device in a cluster (R268). -/
def effQuota (s : State) (c : Fin 128) (v : BitVec 6) : Nat :=
  match findVd s.part v with
  | none => 0
  | some d =>
    if !d.rate.guaranteed then 0
    else
      let q := (s.part.vds.filter (fun e => e.rate.guaranteed && vdInCluster e c.val)).foldl (fun n e => n + e.rate.ways) 0
      let w := cacheWays (getCl s c)
      if w < q then d.rate.ways * w / q else d.rate.ways

/-- A held line of any state: its number, owner tag, and whether it is in U. -/
structure Held where
  line : Nat
  vdid : BitVec 6
  inU : Bool
  deriving DecidableEq, Repr

/-- The lines that a cluster cache holds, in no order. -/
def heldLines (x : Cluster) : List Held :=
  x.lines.map (fun l => ⟨l.line, l.vdid, false⟩) ++ x.ws.map (fun l => ⟨l.line, l.vdid, false⟩)
    ++ x.us.map (fun l => ⟨l.line, l.vdid, true⟩)

/-- The lines of a set in recency order, the protected end first. -/
def setOrder (x : Cluster) (set_ : Nat) : List Held :=
  let l := (heldLines x).filter (fun h => setOf h.line == set_)
  x.order.filterMap (fun n => l.find? (fun h => h.line == n))

/-- Lines of a set that a virtual device holds in a cluster, U and W lines included. -/
def heldInSet (x : Cluster) (set_ : Nat) (v : BitVec 6) : Nat :=
  ((heldLines x).filter (fun h => setOf h.line == set_ && h.vdid == v)).length

def linesInSet (x : Cluster) (set_ : Nat) : Nat := ((heldLines x).filter (fun h => setOf h.line == set_)).length

/-- The victim of R269's steps 2 to 5 for a fill by a virtual device, nearest the eviction end. -/
def victim (s : State) (c : Fin 128) (v : BitVec 6) (set_ : Nat) : Option Held :=
  let x := getCl s c
  let l := (setOrder x set_).reverse
  let beyond (h : Held) : Bool := decide (effQuota s c h.vdid < heldInSet x set_ h.vdid)
  match l.find? (fun h => !h.inU && beyond h) with
  | some h => some h
  | none =>
    match l.find? (fun h => !h.inU && h.vdid == v) with
    | some h => some h
    | none =>
      match l.find? (fun h => h.inU && beyond h) with
      | some h => some h
      | none => l.find? (fun h => h.inU)

/-- A held line leaves its cache: written home, written back, or merged for its owner tag (R91, R267). -/
def evict (s : State) (c : Fin 128) (h : Held) : State :=
  if h.inU then mergeLine s h.line (some h.vdid)
  else if (findWLine (getCl s c) h.line).isSome then flushHome s c h.line
  else dropLine s c h.line

/-- Whether a fill finds a way: a free one or a victim's (R269). -/
def canFill (s : State) (c : Fin 128) (v : BitVec 6) (line : Nat) : Bool :=
  decide (linesInSet (getCl s c) (setOf line) < cacheWays (getCl s c)) || (victim s c v (setOf line)).isSome

/-- Whether a way stands free for a fill, or a victim is found and gone: the state after, and whether the fill may be
allocated. -/
def makeRoom (s : State) (c : Fin 128) (v : BitVec 6) (line : Nat) : State × Bool :=
  if linesInSet (getCl s c) (setOf line) < cacheWays (getCl s c) then (s, true)
  else
    match victim s c v (setOf line) with
    | some h => (evict s c h, true)
    | none => (s, false)

/-- The recency order with a line put in behind n lines of its set. -/
def orderInsert (k line : Nat) : Nat → List Nat → List Nat
  | _, [] => [line]
  | 0, t => line :: t
  | i + 1, x :: t => x :: orderInsert k line (if setOf x == k then i else i + 1) t

/-- A line takes its place in the recency order; the middle is behind half of the set's lines (log 9). -/
def enter (x : Cluster) (line : Nat) (pos : Ins) : Cluster :=
  let held := heldLines x
  let ls := x.order.filter (fun n => n != line && held.any (fun h => h.line == n))
  let k := setOf line
  { x with order := match pos with
      | .prot => line :: ls
      | .evict => ls ++ [line]
      | .mid => orderInsert k line ((ls.filter (fun n => setOf n == k)).length / 2) ls }

/-- The position of a fill (R268): the eviction end for .na, else a hint, else the record's. -/
def fillPos (s : State) (v : BitVec 6) (na : Bool) (hint : Option Ins) : Ins :=
  if na then .evict
  else
    let g := ((findVd s.part v).map (fun d => (d.rate.guaranteed, d.rate.ins))).getD (false, 2)
    match hint with
    | some .prot => if g.1 then .prot else .mid
    | some p => p
    | none => if g.2 == 0 then .prot else if g.2 == 1 then .mid else .evict

/-- A line filled into a cluster cache in a state, and whether it was allocated. -/
def fillLine (s : State) (c : Fin 128) (v : BitVec 6) (line : Nat) (st : LineSt) (pos : Ins) : State × Bool :=
  let r := makeRoom s c v line
  if r.2 then (updCl r.1 c (fun x => enter { x with lines := x.lines ++ [⟨line, st, v⟩] } line pos), true) else r

/-! ## Performing an access -/

/-- How an access reaches memory: cached with a hint, .na, bypass, or uncached (R103, R104, R203, R280); the table entries
that its walk reads (R284), and the work its transfers are charged as (R267). -/
structure Way where
  na : Bool
  bypass : Bool
  uncached : Bool
  hint : Option Ins
  walk : List Nat
  work : Work
  deriving DecidableEq, Repr

/-- A cached access of the part's own, charged as some work. -/
def Way.plain (w : Work) : Way := ⟨false, false, false, none, [], w⟩

/-- Sectors moved uncached between a cluster and the home. -/
def chargeDirect (s : State) (c : Fin 128) (v : BitVec 6) (w : Work) (pa n : Nat) (toHome : Bool) : State :=
  mapPart s (fun p => chargeHome p v w c.val pa n toHome)

/-- The line states and tokens after a load by a cluster that misses, or hits: a token for its die, every other copy shared,
a die that has sent its last token without a copy, and a fill; a die left without a copy keeps no token (R91, R94). -/
def cohLoad (s : State) (c : Fin 128) (v : BitVec 6) (line : Nat) (w : Way) : State :=
  if (findLine (getCl s c) line).isSome then s
  else
    let g := (clusterDie c).val
    let t0 := findTok s.coh line
    let t := readToken t0 g
    let s0 := chargeFill s c v w.work line
    let s1 := { mapCl s0 (fun x => { x with lines := x.lines.map (fun l => if l.line == line then { l with st := .s } else l) })
                with coh := setTok s0.coh t }
    let s2 := if t0.owner != g && tokAt t t0.owner == 0 then dieDrop s1 t0.owner line none else s1
    if w.bypass then giveUp s2 g line
    else
      let st := if tokAt t g == 16 && !otherHolds s2 c line then LineSt.e else LineSt.s
      let r := fillLine s2 c v line st (fillPos s v w.na w.hint)
      if r.2 then r.1 else giveUp r.1 g line

/-- The line states and tokens after a store or atomic by a cluster: every other copy gone, all tokens here; a line that is
not allocated keeps them at its home (R91, R94, R269). -/
def cohStore (s' : State) (c : Fin 128) (v : BitVec 6) (line : Nat) (w : Way) : State :=
  let g := (clusterDie c).val
  let s := aliasRead s' (line * 128)
  match findLine (getCl s c) line with
  | some l =>
    let s1 := mapCl (noteDirty s line) (fun x => { x with lines := x.lines.filter (fun l => l.line != line) })
    let s2 := updCl { s1 with coh := setTok s1.coh (allTokens line g) } c
      (fun x => { x with lines := x.lines ++ [{ l with st := .m, vdid := v }] })
    s2
  | none =>
    if w.bypass || !canFill s c v line then gather (chargeDirect s c v w.work (line * 128) 32 true) line
    else
      let s1 := gather (chargeFill (noteDirty s line) c v w.work line) line
      let r := fillLine { s1 with coh := setTok s1.coh (allTokens line g) } c v line .m (fillPos s v w.na w.hint)
      if r.2 then r.1 else { r.1 with coh := setTok r.1.coh (freshTok line) }

/-! ## Requests that a line keeps waiting (R92, R94, R95) -/

/-- The insertion position of an access that the model knows by its line alone: it may have come with .na or with a hint (R268; log
10). -/
def openPos (s : State) (v : BitVec 6) : Ins :=
  if Config.freeBit s.free then fillPos s v false none
  else if Config.freeBit (s.free + 1) then .evict
  else fillPos s v false (some (if Config.freeBit (s.free + 2) then .mid else .prot))

/-- A cluster's access to a line performed: its W line written home, a line in U merged first, then the line read or taken for
writing (R91, R94). The gateway's own request, for no cluster, moves tokens alone. One whose frame the device may no longer cache
or write is performed otherwise, by its core (R104). -/
def performLine (s : State) (cl : Option (Fin 128)) (v : BitVec 6) (line : Nat) (write : Bool) (work : Work) : State :=
  let st := pageState s.coh (line * 128)
  match cl with
  | none => s
  | some c =>
    if st == .host || (write && st == .readOnly) then s
    else
      let s1 := mergeLine (flushHome s c line) line (some v)
      let w := { Way.plain work with hint := some (openPos s1 v) }
      let s2 := { s1 with free := s1.free + 3 }
      if write then cohStore s2 c v line w
      else if (findLine (getCl s1 c) line).isSome then s1
      else cohLoad s2 c v line w

/-- Whether a die holds the tokens that an access needs (R93, R94). -/
def tokensDo (s : State) (g : Fin 5) (line : Nat) (write : Bool) : Bool :=
  let n := tokAt (findTok s.coh line) g.val
  if write then n == 16 else decide (1 ≤ n)

/-- A gateway's persistent request for a line stands at its home (R95). -/
def persists (s : State) (g : Fin 5) (line : Nat) : Bool := s.coh.persist.any (fun p => p.gw == g && p.line == line)

/-- Requests of a gateway for a line performed in peloton order, as far as the die's tokens do; at most n of them (R92). They wait
while the frame is closed (R106). -/
def serveWaiting (g : Fin 5) (line : Nat) : Nat → State → State
  | 0, s => s
  | n + 1, s =>
    match s.coh.reqs.find? (fun r => r.gw == g && r.line == line) with
    | none => s
    | some r =>
      if persists s g line || !tokensDo s g line r.write || frameClosed s.coh (line * 128) then s
      else
        let s1 := { s with coh := { s.coh with reqs := s.coh.reqs.erase r } }
        serveWaiting g line n (performLine s1 r.cl r.vdid line r.write r.work)

def tokTotal (t : TokRec) : Nat := t.home + t.gw.toList.foldl (· + ·) 0

/-- An active persistent request completed: the requester performs its access and clears the entry, and requests of its die for the
line go on. With tokens missing, or its frame closed, it waits (R95, R106, R378). -/
def finishPersist (s : State) (p : Persist) : State :=
  if tokTotal (findTok s.coh p.line) != 16 || frameClosed s.coh (p.line * 128) then s
  else
    let s1 := performLine s p.cl p.vdid p.line p.write p.work
    let s2 := { s1 with coh := { s1.coh with
      persist := s1.coh.persist.filter (fun q => q != p), lastServed := s1.coh.lastServed.set p.home p.gw.val } }
    serveWaiting p.gw p.line s2.coh.reqs.length s2

def activeFor (s : State) (line : Nat) : Option Persist := s.coh.persist.find? (fun p => p.active && p.line == line)

/-- What would take a line's tokens from an active persistent request comes behind its completion (R95). -/
def completeLine (s : State) (line : Nat) : State :=
  match activeFor s line with
  | some p => finishPersist s p
  | none => s

/-- A W line that the cluster writes to the home. -/
def flushW (s : State) (c : Fin 128) (line : Nat) : State :=
  if (findWLine (getCl s c) line).isSome then flushHome (completeLine s line) c line else s

/-- What memory answers to a read of n bytes at a physical address, once `aliasRead` has run. -/
def homeValue (s : State) (pa n : Nat) : Nat := s.mem.readN (memKey s.part pa) n

/-- n bytes put straight into memory, for an access whose line is ready; waiters on a counter there compare again. -/
def memPut (s : State) (pa n val : Nat) : State :=
  wake { s with mem := s.mem.writeN (memKey s.part pa) n val } false (memKey s.part pa) n

/-- One read-modify-write at the home, memory on the left: a ustore without a victim, or to a host-owned frame (R237,
R269). -/
def updateAtHome (s : State) (c : Fin 128) (v : BitVec 6) (pa : Nat) (t : UTag) (val : Word) (w : Way) : State :=
  let s1 := aliasRead (gather (mergeLine (chargeDirect s c v w.work pa (utagW t / 8) true) (lineOf pa) (some v)) (lineOf pa)) pa
  memPut s1 pa (utagW t / 8) (utagOp t (homeValue s1 pa (utagW t / 8)) (val.toNat % 2 ^ utagW t))

/-! ## Updates (R97, R100) -/

/-- A home's record for a slot under a tag, granted: the line gathered from every cache, the record made or widened, a
switch merged first (R97, R100). -/
def grantRec (s : State) (slot : Fin 128) (line : Nat) (t : UTag) (v : BitVec 6) : State :=
  match findURec s.coh line with
  | some r =>
    if r.tag = t ∧ r.merging.isNone then
      { s with coh := { s.coh with urecs := s.coh.urecs.map (fun x =>
          if x.line == line then { x with presence := x.presence ||| BitVec.twoPow 128 slot.val } else x) } }
    else
      let s1 := mergeWith s r false (some v)
      { s1 with coh := { s1.coh with urecs := s1.coh.urecs ++ [⟨line, t, BitVec.twoPow 128 slot.val, none, 0, none⟩] } }
  | none =>
    let s1 := gather s line
    { s1 with coh := { s1.coh with urecs := s1.coh.urecs ++ [⟨line, t, BitVec.twoPow 128 slot.val, none, 0, none⟩] } }

/-- The identity in every element of a line. -/
def identityLine (t : UTag) : BitVec 1024 :=
  (List.range (1024 / utagW t)).foldl (fun l j => lineSet l (j * (utagW t / 8)) (utagW t / 8) (utagIdentity t)) 0

/-- One update applied to a partial, the partial on the left (R96, R97). -/
def applyUpdate (u : ULine) (off val : Nat) : ULine :=
  let w := utagW u.tag / 8
  { u with data := lineSet u.data off w (utagOp u.tag (lineGet u.data off w) (val % 2 ^ (8 * w)))
           touched := u.touched ||| byteMask off w }

/-- The waiting updates of a line applied in arrival order, up to the first under another tag; the owner tag moves with each (R97,
R100, R268). -/
def drainWaits (t : UTag) (line : Nat) : List UWait → ULine → List UWait × ULine
  | [], u => ([], u)
  | x :: r, u =>
    if x.line == line && x.tag == t then drainWaits t line r { applyUpdate u x.off x.val.toNat with vdid := x.vdid }
    else if x.line == line then (x :: r, u)
    else
      let p := drainWaits t line r u
      (x :: p.1, p.2)

/-- Waiting updates of a line under a tag, up to the first under another tag. -/
def firstWaits (t : UTag) (line : Nat) (l : List UWait) : List UWait :=
  (l.filter (fun x => x.line == line)).takeWhile (fun x => x.tag == t)

/-- A grant that reaches its cluster: the line in U with identities at the position of its first waiting update, and the
waiting updates applied (R97, R268). Where no line can give way, each is performed at the home (R269). -/
def arriveGrant (s : State) (slot : Fin 128) (line : Nat) (t : UTag) (v : BitVec 6) : State :=
  let room := if (getCl s slot).us.any (fun u => u.line == line) then (s, true) else makeRoom s slot v line
  let s1 := room.1
  let x := getCl s1 slot
  if !room.2 then
    let l := firstWaits t line x.uwaits
    l.foldl (fun u y => updateAtHome u slot y.vdid (line * 128 + y.off) t y.val (Way.plain (.semantic 0)))
      (setCl s1 slot { x with uwaits := x.uwaits.filter (fun y => !l.contains y) })
  else
    let first := x.uwaits.find? (fun y => y.line == line)
    let owner := (first.map (·.vdid)).getD v
    let held := x.us.find? (fun u => u.line == line)
    let p := drainWaits t line x.uwaits (held.getD ⟨line, t, identityLine t, 0, 0, owner⟩)
    let x1 := { x with us := (x.us.filter (fun u => u.line != line)) ++ [p.2], uwaits := p.1 }
    setCl s1 slot (if held.isSome then x1 else enter x1 line ((first.map (·.pos)).getD (fillPos s1 owner false none)))

/-- The waiting updates of a cluster to a line requested, granted and applied, in turn of their tags (R97, R100). -/
def settleTags (c : Fin 128) (line : Nat) : Nat → State → State
  | 0, s => s
  | n + 1, s =>
    match (getCl s c).uwaits.find? (fun x => x.line == line) with
    | none => s
    | some x => settleTags c line n (arriveGrant (grantRec s c line x.tag x.vdid) c line x.tag x.vdid)

/-- Updates of a cluster that wait for a grant of a line are performed now, as a later access there waits for (R239). -/
def settleU (s : State) (c : Fin 128) (line : Nat) : State :=
  let n := ((getCl s c).uwaits.filter (fun x => x.line == line)).length
  if n = 0 then s
  else
    let t := settleTags c line n (completeLine s line)
    let keep (r : UReq) : Bool := !(r.slot == c.val && r.line == line)
    { t with coh := { t.coh with ureqs := t.coh.ureqs.filter keep, ugrants := t.coh.ugrants.filter keep } }

/-- A release waits for the cluster's updates to be applied and for its W lines to be written home (R83, R102, R236). -/
def flushAllW (s : State) (c : Fin 128) : State :=
  let s1 := ((getCl s c).uwaits.map (·.line)).eraseDups.foldl (fun t l => settleU t c l) s
  ((getCl s1 c).ws.map (·.line)).foldl (fun t l => flushW t c l) s1

/-! ## Loads and stores -/

/-- A load's line made ready: a W line that covers the bytes, or a held line, is a hit; else updates of the cluster are
applied, a W line is written home, a line in U is merged, and the line is loaded (R91, R239). -/
def lineLoad (s : State) (c : Fin 128) (v : BitVec 6) (pa n : Nat) (w : Way) : State :=
  let line := lineOf pa
  let s1 := settleU s c line
  match findWLine (getCl s1 c) line with
  | some wl =>
    if wl.mask &&& byteMask (pa % 128) n == byteMask (pa % 128) n then s1
    else cohLoad (flushW s1 c line) c v line w
  | none => if (findLine (getCl s1 c) line).isSome then s1 else cohLoad (mergeLine s1 line (some v)) c v line w

/-- The table entries of a walk are loaded by the cluster; those of a host-owned frame uncached (R104, R284). -/
def walkLoads (s : State) (c : Fin 128) (v : BitVec 6) (w : Way) : State :=
  w.walk.foldl (fun t pa => if pageState t.coh pa == .host then chargeDirect t c v w.work pa 8 false
    else lineLoad t c v pa 8 (Way.plain w.work)) s

/-- A read of n bytes prepared. -/
def loadPrep (s : State) (c : Fin 128) (v : BitVec 6) (pa n : Nat) (w : Way) : State :=
  let s1 := walkLoads s c v w
  aliasRead (if w.uncached then chargeDirect s1 c v w.work pa n false else lineLoad s1 c v pa n w) pa

/-- The value that cluster c reads at a physical address, once `loadPrep` has run: from a covering W line, else from
memory. -/
def lineRead (s : State) (c : Fin 128) (pa n : Nat) : Nat :=
  match findWLine (getCl s c) (lineOf pa) with
  | some wl => lineGet wl.data (pa % 128) n
  | none => homeValue s pa n

/-- Whether that read meets poison: a mark of the W line, or the home's under bytes that no one instruction has covered by sectors
(R370, R372). -/
def linePoisoned (s : State) (c : Fin 128) (pa n : Nat) : Bool :=
  match findWLine (getCl s c) (lineOf pa) with
  | some wl => (List.range 4).any (fun q => byteMask (pa % 128) n &&& byteMask (32 * q) 32 != 0 &&
      (wl.poison.getLsbD q || (!wl.clean.getLsbD q && s.poison.contains (memKey s.part (lineOf pa * 128) / 32 + q))))
  | none => touchesPoison s.poison (memKey s.part pa) n

/-- Bytes merged into a W line that a cluster holds. -/
def wMerge (s : State) (c : Fin 128) (v : BitVec 6) (pa n val : Nat) : State :=
  updCl s c (fun x => { x with ws := x.ws.map (fun y => if y.line == lineOf pa then
    { y with data := lineSet y.data (pa % 128) n val, mask := y.mask ||| byteMask (pa % 128) n, vdid := v } else y) })

/-- A .na store to a line not held allocates it in W, at the eviction end; without a victim the store is one of the bypass
kind (R102, R203, R269). -/
def wAllocate (s : State) (c : Fin 128) (v : BitVec 6) (pa n val : Nat) (w : Way) : State :=
  let line := lineOf pa
  let r := makeRoom s c v line
  if r.2 then
    updCl r.1 c (fun y => enter
      { y with ws := y.ws ++ [⟨line, lineSet 0 (pa % 128) n val, byteMask (pa % 128) n, 0, 0, v, 0⟩] } line .evict)
  else memPut (cohStore (mergeLine r.1 line (some v)) c v line { w with bypass := true }) pa n val

/-- n bytes stored by cluster c at a physical address: merged into its W line, allocated in W, or written in M (R91, R102,
R103). -/
def genStore (s : State) (c : Fin 128) (v : BitVec 6) (pa n val : Nat) (w : Way) : State :=
  let s0 := walkLoads s c v w
  if w.uncached then memPut (aliasRead (chargeDirect s0 c v w.work pa n true) pa) pa n val
  else
    let line := lineOf pa
    let s1 := settleU s0 c line
    let x := getCl s1 c
    if (findWLine x line).isSome then wMerge s1 c v pa n val
    else if w.na && (findLine x line).isNone then
      wAllocate (if x.us.any (fun u => u.line == line) then mergeLine s1 line (some v) else s1) c v pa n val w
    else memPut (cohStore (mergeLine s1 line (some v)) c v line w) pa n val

/-- The line made ready for an atomic: merged, written home if in W, held in M (R91, R152). -/
def atomicPrep (s : State) (c : Fin 128) (v : BitVec 6) (pa : Nat) (w : Way) : State :=
  let s0 := walkLoads s c v w
  let line := lineOf pa
  aliasRead (if w.uncached then chargeDirect s0 c v w.work pa 8 true
    else cohStore (mergeLine (flushW (settleU s0 c line) c line) line (some v)) c v line w) pa

/-- An update that the cluster has to ask for: the line given up, room made, the update put to wait, and a request sent
unless the last update that waits there is under the same tag; granted and applied at once unless requests are slow or some
stand (R91, R97, R100; log 11). -/
def requestU (s : State) (c : Fin 128) (v : BitVec 6) (pa : Nat) (t : UTag) (val : Word) (w : Way) : State :=
  let line := lineOf pa
  let s1 := flushW s c line
  let s2 := if (findLine (getCl s1 c) line).isSome then dropLine s1 c line else s1
  let x := getCl s2 c
  let waits := x.uwaits.filter (fun y => y.line == line)
  let room := if x.us.any (fun u => u.line == line) || !waits.isEmpty then (s2, true) else makeRoom s2 c v line
  if !room.2 then updateAtHome room.1 c v pa t val w
  else
    let put := updCl room.1 c (fun y => { y with uwaits := y.uwaits ++
      [⟨line, t, pa % 128, val, room.1.core.index, v, fillPos room.1 v w.na w.hint⟩] })
    let out (r : UReq) : Bool := r.line == line && r.slot == c.val
    if (waits.getLast?.map (fun y => y.tag == t)).getD false then put
    else if put.coh.slowU || !waits.isEmpty || put.coh.ureqs.any out || put.coh.ugrants.any out || (activeFor put line).isSome then
      { put with coh := { put.coh with ureqs := put.coh.ureqs ++ [⟨c.val, line, t, v⟩] } }
    else arriveGrant (grantRec put c line t v) c line t v

/-- An update of the active core's cluster: applied at once where the line is held in U under its tag. An update of the same
core that waits there is performed before one to its location (R97, R239). -/
def applyU (s : State) (c : Fin 128) (v : BitVec 6) (pa : Nat) (t : UTag) (val : Word) (w : Way) : State :=
  let line := lineOf pa
  let s0 := walkLoads s c v w
  let held := (getCl s0 c).us.any (fun u => u.line == line && u.tag == t)
  let mine (x : UWait) : Bool := x.line == line && x.core == s.core.index && (held || x.tag != t)
  let s1 := if (getCl s0 c).uwaits.any mine then settleU s0 c line else s0
  if (getCl s1 c).us.any (fun u => u.line == line && u.tag == t) then
    updCl s1 c (fun x => { x with us := x.us.map (fun u =>
      if u.line == line && u.tag == t then { applyUpdate u (pa % 128) val.toNat with vdid := v } else u) })
  else requestU s1 c v pa t val w

/-! ## The checks of an access -/

/-- What a walk or a fetch of cluster c reads at a physical address: the value a load would return, a merge of a U line
included, and whether it is poisoned (R284); the load itself is made with the access or its fault (`walkLoads`). -/
def peek (s : State) (c : Fin 128) (pa n : Nat) : Nat × Bool :=
  match findWLine (getCl s c) (lineOf pa) with
  | some wl =>
    if wl.mask &&& byteMask (pa % 128) n == byteMask (pa % 128) n then
      (lineGet wl.data (pa % 128) n, linePoisoned s c pa n)
    else
      let s2 := aliasRead (flushW s c (lineOf pa)) pa
      (homeValue s2 pa n, touchesPoison s2.poison (memKey s2.part pa) n)
  | none =>
    let s1 := aliasRead (mergeLine (settleU s c (lineOf pa)) (lineOf pa)) pa
    (homeValue s1 pa n, touchesPoison s1.poison (memKey s1.part pa) n)

/-- A line is another requester's: a persistent request is active for it, or an earlier request of the cluster's gateway for it is
pending (R92, R95). -/
def lineTaken (s : State) (c : Fin 128) (line : Nat) : Bool :=
  let g := (clusterDie c).castSucc
  s.coh.persist.any (fun p => (p.active || p.gw == g) && p.line == line) || s.coh.reqs.any (fun r => r.gw == g && r.line == line)

/-- Whether the cluster serves an access to a line by what it holds (R91, R97). -/
def lineHit (x : Cluster) (acc : Acc) (line : Nat) : Bool :=
  match acc with
  | .load | .fetch | .any => (findWLine x line).isSome || (findLine x line).isSome
  | .store => (findWLine x line).isSome || (findLine x line).any (fun l => l.st != .s)
  | .atomic => (findLine x line).any (fun l => l.st != .s)
  | .update => x.us.any (fun u => u.line == line)

/-- Whether an access that is no hit has to wait for its line; one to a host-owned frame is uncached (R92, R95, R104). -/
def heldUp (s : State) (c : Fin 128) (acc : Acc) (pa : Nat) : Bool :=
  !lineHit (getCl s c) acc (lineOf pa) && pageState s.coh pa != .host && lineTaken s c (lineOf pa)

/-- The same of a load of n bytes that a W line of the cluster covers in part alone (R91). -/
def loadHeld (s : State) (c : Fin 128) (pa n : Nat) : Bool :=
  (findWLine (getCl s c) (lineOf pa)).any (fun w => w.mask &&& byteMask (pa % 128) n != byteMask (pa % 128) n) &&
    pageState s.coh pa != .host && lineTaken s c (lineOf pa)

/-- How a walk for a cluster reads table entries. -/
def walkerOf (s : State) (c : Fin 128) : Walker :=
  ⟨fun pa => peek s c pa 8, fun pa => frameClosed s.coh pa || heldUp s c .load pa || loadHeld s c pa 8⟩

/-- A translation for a cluster: leaves of a core's TLB and of the cluster's, table pointers of the cluster and of its die's
walker, else a walk (R283, R284). -/
def translateAt (s : State) (c : Fin 128) (own : List TlbEntry) (v : BitVec 6) (acc : Acc) (va : Word) : Check :=
  translate s.part (own ++ (getCl s c).tlb) ((getCl s c).ptrs ++ (s.part.dies[clusterDie c]).ptrs) (walkerOf s c) v acc va

/-- R353 steps 8 to 11 of a generic access through a cluster, alignment apart. -/
def checkAt (s : State) (c : Fin 128) (own : List TlbEntry) (v : BitVec 6) (acc : Acc) (va : Word) : Check :=
  match translateAt s c own v acc va with
  | .ok x => match pageChecks s.coh acc x with
    | .ok y => if heldUp s c acc y.pa then .stall else .ok y
    | r => r
  | r => r

end Sys2Proof.Machine
end

