-- ==== Sys2Proof/Machine/Queues.lean ====
section
/-! DEFINITION. The vector queues as data: what an instruction of the vector memory queue is (R193 to R195, R238, R240), what the
EP's order holds before a place (R199), which queues an EP instruction pops (R168), which of them stand (R38), and what the AP waits
for there (R81, R209, R236). -/

namespace Sys2Proof.Machine

open Sys2Proof

/-! ## What an instruction of the queue is -/

inductive VmKind where
  | load (d : LDst)
  | store
  | rred (rm : Rm) (sat : Bool) (sc : Scope)
  | ust (tag : UTag) (rel : Bool)
  | lockacq (d : MReg)
  | lockrel
  deriving DecidableEq, Repr

inductive VmForm where
  | unit | strided | seg (f : Nat) | index | lane | packed
  deriving DecidableEq, Repr

/-- The one description of every instruction of the queue: kind, address form, element type and size, predicate, .oe and
.na, first-fault, data registers, index register and companion. -/
structure VmDesc where
  kind : VmKind
  form : VmForm
  et : ElemTy
  msk : Fin 8
  oe : Bool
  na : Bool
  ff : Bool
  data : List VReg
  idx : Option VReg
  comp : Option VReg
  deriving DecidableEq, Repr

def segRegs (d : VReg) (f : Nat) : List VReg := (List.range f).map (fun i => d + Fin.ofNat 32 i)

def vmDesc : Instr → Option VmDesc
  | .vld m d _ _ => some ⟨.load d, if m.et.isPacked then .packed else .unit, m.et, m.msk, m.oe, m.na, false, [], none, none⟩
  | .vldff m d _ _ => some ⟨.load d, .unit, m.et, m.msk, m.oe, m.na, true, [], none, none⟩
  | .vst m r _ _ => some ⟨.store, if m.et.isPacked then .packed else .unit, m.et, m.msk, m.oe, m.na, false, [r], none, none⟩
  | .vlds m d _ _ => some ⟨.load d, .strided, m.et, m.msk, m.oe, m.na, false, [], none, none⟩
  | .vsts m r _ _ => some ⟨.store, .strided, m.et, m.msk, m.oe, m.na, false, [r], none, none⟩
  | .vldseg m d _ _ f => some ⟨.load (.v d), .seg f.toNat, m.et, m.msk, m.oe, m.na, false, [], none, none⟩
  | .vstseg m r _ _ f => some ⟨.store, .seg f.toNat, m.et, m.msk, m.oe, m.na, false, segRegs r f.toNat, none, none⟩
  | .vldx m d _ c => some ⟨.load d, .index, m.et, m.msk, m.oe, m.na, false, [], some c, none⟩
  | .vstx m r _ c => some ⟨.store, .index, m.et, m.msk, m.oe, m.na, false, [r], some c, none⟩
  | .vldl m d _ _ c => some ⟨.load d, .lane, m.et, m.msk, m.oe, m.na, false, [], c, none⟩
  | .vstl m r _ _ c => some ⟨.store, .lane, m.et, m.msk, m.oe, m.na, false, [r], c, none⟩
  | .vrred m rm sat sc r _ _ c => some ⟨.rred rm sat sc, .unit, m.et, m.msk, m.oe, m.na, false, [r], none, c⟩
  | .vustore m tag rel _ r _ _ c =>
    some ⟨.ust tag rel, if c.isSome then .index else .unit, m.et, m.msk, m.oe, m.na, false, [r], c, none⟩
  | .vlockacq _ msk _ d _ c _ => some ⟨.lockacq d, .index, .n64, msk, false, false, false, [], some c, none⟩
  | .vlockrel _ msk _ _ c _ => some ⟨.lockrel, .index, .n64, msk, false, false, false, [], some c, none⟩
  | _ => none

/-- The registers it reads as data, index and companion (R199). -/
def VmDesc.reads (d : VmDesc) : List VReg := d.data ++ d.idx.toList ++ d.comp.toList

/-- Whether it reads an EP register, a predicate included. -/
def VmDesc.needsEp (d : VmDesc) : Bool := !d.reads.isEmpty || d.msk != 0

/-- Whether it writes EP registers, at its place in their order. -/
def VmDesc.writesEp (d : VmDesc) : Bool :=
  match d.kind with
  | .load (.v _) | .lockacq _ => true
  | _ => false

/-! ## The EP's order (R199) -/

def isMarker (seq : Nat) (o : EpOp) : Bool := o.work == .vm seq

/-- The vector registers that an instruction of the EP writes, or makes dead at its belay point (R42, R43). -/
def epVWrites : Instr → List VReg
  | .vadd _ d _ _ | .vsub _ d _ _ | .vmul _ d _ _ | .vmulh _ d _ _ | .vdiv _ d _ _ | .vmin _ d _ _ | .vmax _ d _ _
  | .vand _ d _ _ | .vor _ d _ _ | .vxor _ d _ _ | .vshl _ d _ _ | .vshr _ d _ _ | .vsra _ d _ _ | .vhash _ d _ _
  | .vperm _ d _ _ | .vslideup _ d _ _ | .vslidedown _ d _ _ | .vbcast _ d _ _ | .vcompress _ d _ _ | .vexpand _ d _ _ => [d]
  | .vfma _ d _ _ _ _ | .vfms _ d _ _ _ _ | .vfnma _ d _ _ _ _ => [d]
  | .vsqrt _ d _ | .vrcp _ d _ | .vrsqrt _ d _ | .vexp2 _ d _ | .vlog2 _ d _ | .vabs _ d _ | .vneg _ d _ | .vnot _ d _
  | .vclz _ d _ | .vpopc _ d _ | .viota _ d _ | .viotaIdx _ d => [d]
  | .vsel _ d _ _ _ | .vscale _ d _ _ _ | .vcvt _ d _ _ _ _ => [d]
  | .vpack _ d _ c => [d, c]
  | .vpermb _ d _ _ _ cd => [d, cd]
  | .vredsum _ (.v d) _ _ | .vredmax _ (.v d) _ _ | .vredmin _ (.v d) _ _ | .vmv _ (.v d) _ _ => [d]
  | .vdrain _ d a b c _ _ vi _ => [d, a, b, c, vi]
  | .setvl _ _ _ _ live | .setvlTeam _ _ _ _ _ live => (List.finRange 32).filter (fun r => !live.getLsbD r.val)
  | _ => []

/-- The mask register that an instruction of the EP writes. -/
def epMWrite : Instr → Option MReg
  | .vcmp _ d _ _ _ | .vclass _ d _ _ | .mand _ d _ _ | .mor _ d _ _ | .mxor _ d _ _ | .mnot _ d _ | .mset _ d _ => some d
  | _ => none

/-- What stands in the EP's order before a place may still write a register that the instruction reads (R199). -/
def EpWork.spoils (d : VmDesc) : EpWork → Bool
  | .ins i => (epVWrites i).any (fun r => d.reads.contains r) || (d.msk != 0 && epMWrite i == some d.msk)
  | .writeback l m => l.any (fun w => d.reads.contains w.1) || (d.msk != 0 && m.map (·.1) == some d.msk)
  | .vm _ => true
  | .idx _ _ => false

/-- Every earlier instruction that writes a register the instruction reads has completed (R199); one that reads no register has
no place in the EP's order to wait for. -/
def vmRegsReady (c : Core) (d : VmDesc) (seq : Nat) : Bool :=
  !d.needsEp || (c.viq.takeWhile (fun o => !isMarker seq o)).all (fun o => !o.work.spoils d)

/-- Whether an instruction of the vector memory queue reads a location. -/
def vmReads (o : VmOp) : Bool :=
  match (vmDesc o.ins).map VmDesc.kind with
  | some .store | some (.ust _ _) | some .lockrel => false
  | _ => true

/-- Whether a queued instruction acts as a fence.rel before its accesses: a vustore with .rel, vrred, vlockrel (R208, R238,
R241). -/
def vmReleases (o : VmOp) : Bool :=
  match (vmDesc o.ins).map VmDesc.kind with
  | some (.ust _ rel) => rel
  | some (.rred _ _ _) | some .lockrel => true
  | _ => false

/-- Whether it acts as a fence.acq behind its accesses (R240). -/
def vmAcquires (o : VmOp) : Bool :=
  match (vmDesc o.ins).map VmDesc.kind with
  | some (.lockacq _) => true
  | _ => false

/-! ## Queues that stand (R38) -/

def isQueue : VmKind → Option (Fin 4)
  | .load (.q j) => some j
  | _ => none

/-- The queue codes in the source fields of a class-3 instruction, in the order a, b, c (R137, R168). -/
def popCodes (i : Instr) : List Nat :=
  match layout i with
  | some r => ([r.base.a.toNat, r.base.b.toNat, r.x.c.toNat]).filter (fun n => decide (32 ≤ n ∧ n ≤ 39))
  | none => []

def getVq (c : Core) (j : Fin 4) : List QEntry := c.vq[j]

def queueEmpty (c : Core) (code : Nat) : Bool :=
  if code < 36 then (getVq c (Fin.ofNat 4 (code - 32))).isEmpty
  else if code = 36 then c.q4.isEmpty
  else if code = 37 then c.q5.isEmpty
  else c.q7.isEmpty

/-- A stream that can still push onto its queue (R230). -/
def streamLive (c : Core) (j : Fin 4) : Bool := (c.streams[j]).any (fun x => x.fault.isNone && decide (x.next < x.count))

/-- The first instruction of the EP's order waits to pop an empty queue that no stream fills, or to push to a full one. -/
def epStands (c : Core) : Bool :=
  match c.viq with
  | ⟨.ins (.vtoq _ _), _⟩ :: _ => decide (32 ≤ c.q6.length)
  | ⟨.ins i, _⟩ :: _ => (popCodes i).any (fun n => queueEmpty c n && !(decide (n < 36) && streamLive c (Fin.ofNat 4 (n - 32))))
  | _ => false

/-- The head of the vector memory queue waits for the EP. -/
def vmBehindEp (c : Core) : Bool :=
  match c.vmq with
  | [] => false
  | o :: _ => (vmDesc o.ins).any (fun d => o.regs.isNone && !vmRegsReady c d o.cap.seq)

/-- The head of the vector memory queue waits to push to a full queue. -/
def vmStands (c : Core) : Bool :=
  match c.vmq with
  | [] => false
  | o :: _ => !vmBehindEp c && ((vmDesc o.ins).bind (fun d => isQueue d.kind)).any (fun j => decide (4 ≤ (c.vq[j]).length))

/-- The EP waits at the place of an instruction of the vector memory queue. -/
def epBehindVm (c : Core) : Bool :=
  match c.viq with
  | ⟨.vm _, _⟩ :: _ => true
  | _ => false

/-- What the vector queues hold stands on architectural queues that only a later instruction of the AP, or another core, moves. -/
def queuesStand (c : Core) : Bool :=
  let ep := epStands c
  let vm := vmStands c
  (c.viq.isEmpty || ep || (vm && epBehindVm c)) && (c.vmq.isEmpty || vm || (ep && vmBehindEp c)) && (ep || vm)

/-! ## What the AP waits for -/

/-- The instructions of the vector memory queue that an access or a fence of the AP can wait for. In the S view those that stand on
a queue, and those at or behind the one whose fault was taken, cannot be performed before the return, and nothing waits for them
(R206, R341; log 14). -/
def Core.openVmq (c : Core) : List VmOp :=
  if c.view != .s then c.vmq
  else if queuesStand c then []
  else
    match c.entry.bind Entry.stop with
    | some n => c.vmq.filter (fun o => decide (o.cap.seq < n))
    | none => c.vmq

/-- A release waits until the vector memory queue holds nothing that can be performed (R209, R236). -/
def releaseWaits (s : State) : Bool := !s.core.openVmq.isEmpty

/-- An acquire waits until the earlier loads are done (R81, R236). -/
def acquireWaits (s : State) : Bool := s.core.openVmq.any vmReads

/-- Entering the supervisor acts as fence.acqrel.dev: the AP's fault is taken once the class-4 instructions before it are performed,
or stand on a queue (R347; log 14). -/
def entryWaits (s : State) : Bool := s.core.view != .s && !s.core.vmq.isEmpty && !queuesStand s.core

end Sys2Proof.Machine
end

