-- ==== Sys2Proof/Machine/Ops.lean ====
section
/-! DEFINITION. The named operations that every meaning is built from: registers, local space, generic accesses of a
core, fault records, taking an exception (kill or supervisor entry) and the return from one. -/

namespace Sys2Proof.Machine

open Sys2Proof

/-- What a meaning answers. -/
abbrev Out := Host.Outcome State Fault Refusal

/-! ## Registers of the active core -/

/-- s[r]; s0 reads zero (R35, R137). -/
def Core.sreg (c : Core) (r : SReg) : Word := if r = 0 then 0 else c.s[r]

/-- s[r] written; a write of s0 is discarded (R35, R137). -/
def Core.setSreg (c : Core) (r : SReg) (v : Word) : Core := if r = 0 then c else { c with s := c.s.set r v }

def State.sreg (s : State) (r : SReg) : Word := s.core.sreg r

def State.withCore (s : State) (c : Core) : State := { s with core := c }

def State.updCore (s : State) (f : Core → Core) : State := { s with core := f s.core }

def State.setSreg (s : State) (r : SReg) (v : Word) : State := s.updCore (fun c => c.setSreg r v)

/-- The AP goes on at an address: no wait is left. -/
def State.goto (s : State) (a : Word) : State := s.updCore (fun c => { c with pc := a, wait := .none })

/-- The AP goes on behind an instruction of n bytes. -/
def State.advance (s : State) (n : Nat) : State := s.goto (s.core.pc + BitVec.ofNat 64 n)

/-- A result written and the instruction done. -/
def State.retire (s : State) (d : SReg) (v : Word) (n : Nat) : State := (s.setSreg d v).advance n

/-- The AP waits where it stands (R353 step 7). -/
def State.waitAs (s : State) (w : Wait) : State := s.updCore (fun c => { c with wait := w })

/-- An acquire of the AP: the reads queued until now hold every later access (R81). -/
def State.acquire (s : State) : State := s.updCore (fun c => { c with acqSeq := c.seq })

def State.cl (s : State) : Fin 128 := coreCluster s.core.index

/-- Cycle counter of the active core's die (R303). -/
def State.die (s : State) : Fin 4 := clusterDie s.cl
def State.cycle (s : State) : Word := s.part.dies[s.die].cycle

/-- Replaces a core by index: the active one, or one of the others (a core that has not been touched is put in). -/
def State.putCore (s : State) (c : Core) : State :=
  if c.index = s.core.index then { s with core := c }
  else if s.rest.any (fun x => x.index == c.index) then
    { s with rest := s.rest.map (fun x => if x.index == c.index then c else x) }
  else { s with rest := s.rest ++ [c] }

/-- A core by index; one that nothing has touched stands as after reset. -/
def State.getCore (s : State) (i : Fin 1024) : Core :=
  if i = s.core.index then s.core else (s.rest.find? (fun x => x.index == i)).getD (Core.reset i)

def State.mapCores (s : State) (f : Core → Core) : State :=
  { s with core := f s.core, rest := s.rest.map f }

def State.cores (s : State) : List Core := s.core :: s.rest

/-! ## Vector, mask and k registers -/

def Core.vreg (c : Core) (r : VReg) : Vec := c.v[r]

def Core.isPoisoned (c : Core) (r : VReg) : Bool := c.poisonV.getLsbD r.val

/-- A vector register as a destination finds it: a poisoned one reads zero in what is not written (R43). -/
def Core.vdest (c : Core) (r : VReg) : Vec := if c.isPoisoned r then 0 else c.v[r]

/-- A vector register written, readable again (R43). -/
def Core.setVreg (c : Core) (r : VReg) (x : Vec) : Core :=
  { c with v := c.v.set r x, poisonV := c.poisonV &&& ~~~(BitVec.twoPow 32 r.val) }

def Core.setM (c : Core) (r : MReg) (x : Mask) : Core := { c with m := c.m.set r x }

def Core.setK (c : Core) (r : KReg) (x : Word) : Core := { c with k := c.k.set r x }

/-! ## Groups -/

def findGroup (p : Part) (g : BitVec 32) : Option Group := p.groups.find? (fun x => x.cgid == g)

def setGroup (p : Part) (g : Group) : Part :=
  { p with groups := p.groups.map (fun x => if x.cgid == g.cgid then g else x) }

/-- Whether a core stands in a group's wave. -/
def inGroup (g : BitVec 32) (c : Core) : Bool := c.cgid == g && c.run != .off

/-- The virtual device of the active core. -/
def State.vd (s : State) : Option Vd := findVd s.part s.core.vdid

/-! ## Local space (R70) -/

/-- Where a local access lands: bytes of a store or a bank, or a FIFO bank of the own cluster. -/
inductive Place where
  | bytes (key : Nat)
  | fifo (b : Fin 32)
  deriving DecidableEq, Repr

inductive LocCheck where
  | ok (p : Place)
  | stall
  | bad
  deriving DecidableEq, Repr

def bankMode (c : Cluster) (b : Nat) : Nat := (c.cbmode.extractLsb' (2 * b) 2).toNat

/-- A scratchpad offset of a cluster (kinds 2 and 3). -/
def scratchCheck (s : State) (d : Vd) (cl : Fin 128) (off : Nat) : LocCheck :=
  let b := off / 0x20000
  let c := getCl s cl
  if 32 ≤ b || !d.banks.getLsbD b || !vdInCluster d cl.val then .bad
  else if c.busy.getLsbD b then .stall
  else if bankMode c b != 1 then .bad
  else .ok (.bytes (scratchKey cl.val off))

/-- The checks of R70 on a 40-bit local address of the active core. -/
def localCheck (s : State) (a : BitVec 40) : LocCheck :=
  let kind := (a.extractLsb' 36 4).toNat
  let unit := (a.extractLsb' 24 12).toNat
  let off := (a.extractLsb' 0 24).toNat
  let me := s.core.index.val
  match s.vd with
  | none => if kind == 0 && unit == 0 && decide (off ≤ 0x7FFFF) then .ok (.bytes (coreKey me off)) else .bad
  | some d =>
    if kind == 0 then
      if unit == 0 && decide (off ≤ 0x7FFFF) then .ok (.bytes (coreKey me off)) else .bad
    else if kind == 1 then
      if decide (1024 ≤ unit) || decide (0x7FFFF < off) then .bad
      else if unit == me then .ok (.bytes (coreKey me off))
      else
        let permitted := if unit / 8 == me / 8 then s.core.xmask.getLsbD (unit % 8) else s.core.xmask.getLsbD 8
        if s.part.present.getLsbD (unit / 8) && (d.excl ||| d.shared).getLsbD unit && permitted then
          .ok (.bytes (coreKey unit off))
        else .bad
    else if kind == 2 then
      if unit == 0 then scratchCheck s d s.cl off else .bad
    else if kind == 3 then
      if h : unit < 128 then
        if s.part.present.getLsbD unit && s.core.xmask.getLsbD 9 then scratchCheck s d ⟨unit, h⟩ off else .bad
      else .bad
    else if kind == 4 then
      let b := off / 0x20000
      if h : unit = 0 ∧ b < 32 then
        if !d.banks.getLsbD b || !s.core.xmask.getLsbD 10 then .bad
        else if (getCl s s.cl).busy.getLsbD b then .stall
        else if bankMode (getCl s s.cl) b == 2 then .ok (.fifo ⟨b, h.2⟩)
        else .bad
      else .bad
    else .bad

/-- A write to scratchpad bytes ends the reuse of a B loaded, or being loaded, from there (R218). -/
def endReuse (s : State) (key n : Nat) : State :=
  if key < 2 ^ 40 then s
  else
    let cl := (key - 2 ^ 40) / 2 ^ 24
    let off := (key - 2 ^ 40) % 2 ^ 24
    if h : cl < 128 then
      updCl s ⟨cl, h⟩ (fun c => { c with breg := c.breg.map (fun b => match b with
        | some l => some (if l.scratch && decide (off < l.addr + 256 * (32 * l.planes + 8) ∧ l.addr < off + n) then { l with stale := true } else l)
        | none => none) })
    else s

/-- Reuse of the B that a tile of a core holds ends with the tile's ready period (R218). -/
def endTileReuse (s : State) (i : Fin 1024) (base : Nat) : State :=
  updCl s (coreCluster i) (fun c => { c with breg := c.breg.map (fun b =>
    b.filter (fun l => l.scratch || l.core != i.val || l.addr != base)) })

/-- n bytes put into local space. -/
def locPut (s : State) (key n v : Nat) : State :=
  wake (endReuse { s with loc := s.loc.writeN key n v } key n) true key n

def setLocPoison (s : State) (key : Nat) : State := { s with locPoison := natInsert s.locPoison (key / 32) }
def clearLocPoison (s : State) (key : Nat) : State := { s with locPoison := natErase s.locPoison (key / 32) }

/-- The cluster of a place of local space. -/
def keyCluster (key : Nat) : Nat := if key < 2 ^ 40 then key / 2 ^ 24 / 8 else (key - 2 ^ 40) / 2 ^ 24

/-- Bytes that the active core moves between its cluster and a place of local space, charged on their path where that is in another
cluster (R267). -/
def chargeLocal (s : State) (key n : Nat) (out : Bool) : State :=
  let me := s.cl.val
  let at_ := keyCluster key
  if at_ == me then s
  else mapPart s (fun p => chargePath p s.core.vdid (groupWork p s.core.cgid) (some (if out then me else at_)) (some (if out then at_ else me)) n)

/-! ## FIFO banks (R75) -/

/-- Whether the active core's AP, or its vector memory queue, is served next at a FIFO bank: no other party of its direction
has arrived before it. -/
def fifoTurn (s : State) (b : Fin 32) (push vm : Bool) : Bool :=
  match (getCl s s.cl).fifoWait.find? (fun w => w.bank == b && w.push == push) with
  | some w => w.core == s.core.index && w.vm == vm
  | none => true

/-- It has arrived and stands blocked. -/
def fifoArrive (s : State) (b : Fin 32) (push vm : Bool) : State :=
  let w : FifoWait := ⟨b, push, s.core.index, vm⟩
  updCl s s.cl (fun c => if c.fifoWait.contains w then c else { c with fifoWait := c.fifoWait ++ [w] })

/-- A FIFO bank whose head has been popped. -/
def popFifo (b : Fin 32) (t : List Word) (c : Cluster) : Cluster :=
  { c with fifo := c.fifo.set b t
           fifoBad := c.fifoBad.filterMap (fun x => if x.1 != b then some x else if x.2 = 0 then none else some (x.1, x.2 - 1)) }

/-- It has been served: it leaves the bank's order, and the queue watchdog starts again (R389). -/
def fifoServed (s : State) (b : Fin 32) (push vm : Bool) (f : List Word) : State :=
  (updCl s s.cl (fun c =>
    { (if push then { c with fifo := c.fifo.set b f } else popFifo b f c) with
      fifoWait := c.fifoWait.filter (fun w => w != ⟨b, push, s.core.index, vm⟩) })).updCore
    (fun c => { c with queueEdges := 0 })

/-! ## Tagged addresses (R150, R196, R210) -/

/-- A tagged address read: generic, local (bits 39..0), or a local one with bits 62..40 set. -/
inductive Tagged where
  | gen (a : Word)
  | loc (a : BitVec 40)
  | badLoc
  deriving DecidableEq, Repr

def tagged (a : Word) : Tagged :=
  if a.getLsbD 63 then (if a.extractLsb' 40 23 == 0 then .loc (a.extractLsb' 0 40) else .badLoc) else .gen a

/-! ## Generic accesses of the active core -/

/-- A translation for the active core (R279 to R284). -/
def State.translate (s : State) (acc : Acc) (va : Word) : Check := translateAt s s.cl s.core.tlb s.core.vdid acc va

/-- The checks of a generic access of the active core (R353 steps 8 to 11, alignment apart). -/
def State.check (s : State) (acc : Acc) (va : Word) : Check := checkAt s s.cl s.core.tlb s.core.vdid acc va

/-- The insertion hint of the core's a.ins ranges for an address, newest first (R246). -/
def insHint (c : Core) (va : Word) : Option Ins :=
  (c.adv.ins.find? (fun r => decide (r.2.1.toNat ≤ va.toNat ∧ va.toNat < r.2.1.toNat + r.2.2))).map (·.1)

/-- How an access through a leaf is performed (R104, R203, R280). -/
def State.way (s : State) (x : Xl) (va : Word) (na : Bool) : Way :=
  { na := na || x.mkind == 2, bypass := x.mkind == 1, uncached := pageState s.coh x.pa == .host
    hint := insHint s.core va, walk := x.reads.map Prod.fst, work := groupWork s.part s.core.cgid }

/-- How the part's own write or read for a virtual device is performed, charged as some work. -/
def partWay (s : State) (x : Xl) (w : Work) : Way :=
  { na := x.mkind == 2, bypass := x.mkind == 1, uncached := pageState s.coh x.pa == .host, hint := none
    walk := x.reads.map Prod.fst, work := w }

/-- pseen set in a leaf through which poison was read, as an atomic write of the entry for a cluster's walk: its W line goes home,
and every copy is gathered first (R282). -/
def setPseenAt (s : State) (c : Fin 128) (v : BitVec 6) (leafAddr : Nat) : State :=
  let line := lineOf leafAddr
  let s1 := aliasRead (gather (mergeLine (flushW (settleU (completeLine s line) c line) c line) line (some v)) line) leafAddr
  memPut s1 leafAddr 8 (homeValue s1 leafAddr 8 ||| 0x80)

def setPseen (s : State) (leafAddr : Nat) : State := setPseenAt s s.cl s.core.vdid leafAddr

/-- The table entries of a walk that faults are loaded like any other's (R284). -/
def walkedFor (s : State) (c : Fin 128) (v : BitVec 6) (w : Work) (f : XFault) : State :=
  walkLoads s c v { Way.plain w with walk := f.reads }

def walkedTo (s : State) (f : XFault) : State := walkedFor s s.cl s.core.vdid (groupWork s.part s.core.cgid) f

/-! ## Fault records (R343, R344) -/

/-- What a fault record holds beside what the core supplies. -/
structure FaultInfo where
  kind : BitVec 8
  pc : Word
  strip : Word
  element : Option (BitVec 32) := none
  sub : BitVec 16 := 0
  addr : Option Word := none
  resume : Word := 0
  rdst : Word := 0
  partly : Bool := false
  /-- TSTAMP at detection, where that is not now. -/
  time : Option Word := none
  deriving DecidableEq, Repr

/-- A fault of the AP's own instruction. -/
def apFault (s : State) (kind : BitVec 8) : FaultInfo :=
  { kind := kind, pc := s.core.pc, strip := s.core.stripBase }

def apFaultAt (s : State) (kind : BitVec 8) (sub : Nat) (addr : Word) : FaultInfo :=
  { apFault s kind with sub := BitVec.ofNat 16 sub, addr := some addr }

/-- The flags byte of R343: repair, killing, part of a vector-partial, address valid, element valid. -/
def recordFlags (f : FaultInfo) (repair killing : Bool) : Nat :=
  (if repair then 1 else 0) + (if killing then 2 else 0) + (if f.partly then 4 else 0)
    + (if f.addr.isSome then 8 else 0) + (if f.element.isSome then 16 else 0)

/-- The 64 bytes of a record, as one little-endian number (R343). -/
def recordBytes (cgid : BitVec 32) (core : Nat) (f : FaultInfo) (flags : Nat) (time : Word) : Nat :=
  cgid.toNat + core * 2 ^ 32 + f.kind.toNat * 2 ^ 48 + flags * 2 ^ 56
    + f.pc.toNat * 2 ^ 64 + f.strip.toNat * 2 ^ 128
    + ((f.element.getD 0).toNat + f.sub.toNat * 2 ^ 32) * 2 ^ 192
    + (f.addr.getD 0).toNat * 2 ^ 256 + f.resume.toNat * 2 ^ 320 + f.rdst.toNat * 2 ^ 384 + time.toNat * 2 ^ 448

/-- A cluster through which the part's own writes for a virtual device go: the lowest one where it holds a core. -/
def vdCluster (d : Vd) : Fin 128 :=
  ((List.finRange 128).find? (fun c => vdInCluster d c.val)).getD 0

def sat16 (x : BitVec 16) : BitVec 16 := if x == 0xFFFF then x else x + 1

/-- The checks of a generic access that the part makes for a virtual device. -/
def vdCheck (s : State) (d : Vd) (acc : Acc) (va : Word) : Check := checkAt s (vdCluster d) [] d.vdid acc va

/-- Sectors written for a virtual device and performed at the home at `.dev`: a line in U is merged, every copy gathered, the
cluster's W line written home before; each sector's mark goes (R86, R344, R372). -/
def putHome (s : State) (c : Fin 128) (v : BitVec 6) (x : Xl) (n val : Nat) (w : Work) : State :=
  let line := lineOf x.pa
  let s0 := walkLoads s c v (partWay s x w)
  let s1 := if pageState s0.coh x.pa == .host then s0
    else gather (mergeLine (flushW (settleU (completeLine s0 line) c line) c line) line (some v)) line
  let s2 := memPut (aliasRead (chargeDirect s1 c v w x.pa n true) x.pa) x.pa n val
  (List.range (n / 32)).foldl (fun t i => clearPoison t (x.pa + 32 * i)) s2

/-- What becomes of a write to an entry of a record queue: performed, waiting while the frame is closed or the line is another
requester's, or not possible (R106, R344). -/
inductive Put where
  | done (s : State)
  | stall
  | lost
  deriving DecidableEq, Repr

/-- 64 bytes put into an entry of a record queue of a virtual device, charged as some work (R344, R316). -/
def putEntry (s : State) (d : Vd) (va : Word) (v : Nat) (w : Work) : Put :=
  match vdCheck s d .store va with
  | .ok x => .done (putHome s (vdCluster d) d.vdid x 64 v w)
  | .stall => .stall
  | .fault _ => .lost

/-- The record queue of a virtual device, FAULTQ or STAMPQ, with its base and entries. -/
def recQ (d : Vd) (stamp : Bool) : RecQ := if stamp then d.sq else d.fq
def recqBase (d : Vd) (stamp : Bool) : Word := if stamp then d.stampq else d.faultq
def recCount (d : Vd) (stamp : Bool) : Nat := if stamp then d.stampn else d.faultn
def setRecQ (s : State) (d : Vd) (stamp : Bool) (q : RecQ) : State :=
  { s with part := setVd s.part (if stamp then { d with sq := q } else { d with fq := q }) }

/-- Records of a queue that wait. -/
def recsOf (p : Part) (v : BitVec 6) (stamp : Bool) : List PendRec := p.recs.filter (fun r => r.vdid == v && r.stamp == stamp)

/-- One record written behind those that wait: the state, and its address, 0 when the queue is full or the slot cannot be written
and the record is dropped and counted. `tail` advances once both sectors are performed (R316, R344, R347). -/
def sendRecord (s : State) (d : Vd) (stamp : Bool) (bytes : Nat) : State × Word :=
  let q := recQ d stamp
  let n := recCount d stamp
  let waits := (recsOf s.part d.vdid stamp).length
  let slot := (q.tail.toNat + waits) % n
  let drop : State × Word := (setRecQ s d stamp { q with drop := sat16 q.drop }, 0)
  let va := recqBase d stamp + BitVec.ofNat 64 (64 * slot)
  let wait : State × Word := ({ s with part := { s.part with recs := s.part.recs ++ [⟨d.vdid, stamp, bytes⟩] } }, va)
  if (slot + 1) % n == q.head.toNat % n then drop
  else if waits != 0 then wait
  else
    match putEntry s d va bytes (if stamp then .trace else .save) with
    | .lost => drop
    | .stall => wait
    | .done s1 => (setRecQ s1 d stamp { q with tail := BitVec.ofNat 16 ((slot + 1) % n) }, va)

/-- One record written to a virtual device's FAULTQ: the state and the record's address (R344, R347). -/
def writeRecord (s : State) (v : BitVec 6) (bytes : Nat) : State × Word :=
  match findVd s.part v with
  | none => (s, 0)
  | some d => sendRecord s d false bytes

/-- Records that wait are written as far as their slots allow, each behind the earlier ones of its queue (R106, R344). -/
def drainRecs (s : State) : State :=
  s.part.recs.foldl (fun t r =>
    match findVd t.part r.vdid with
    | none => t
    | some d => (sendRecord t d r.stamp r.bytes).1) { s with part := { s.part with recs := [] } }

/-- A record of the active core's group. -/
def coreRecord (s : State) (f : FaultInfo) (repair killing : Bool) : State × Word :=
  writeRecord s s.core.vdid
    (recordBytes s.core.cgid s.core.index.val f (recordFlags f repair killing) (f.time.getD s.part.tstamp))

/-! ## Stamp records of tiles (R315, R316) -/

def stampBytes (c : Core) (slot : Nat) (t : Stamp) (retire : Word) : Nat :=
  c.cgid.toNat + (c.index.val + slot * 2 ^ 10) * 2 ^ 32 + t.flags.toNat * 2 ^ 48
    + t.fillStart.toNat * 2 ^ 64 + t.ready.toNat * 2 ^ 128 + t.firstUse.toNat * 2 ^ 192 + t.computeEnd.toNat * 2 ^ 256
    + t.drainStart.toNat * 2 ^ 320 + retire.toNat * 2 ^ 384 + t.opWait.toNat * 2 ^ 448

/-- A stamp record sent to STAMPQ, or dropped and counted. -/
def writeStamp (s : State) (v : BitVec 6) (bytes : Nat) : State :=
  match findVd s.part v with
  | none => s
  | some d => (sendRecord s d true bytes).1

/-- A tile slot of a core goes to empty; an open stamp record is written with `extra` flags (R315), and a B that was loaded from
it is loaded anew (R218). -/
def emptyTile (s : State) (c : Core) (t : TSlot) (extra : BitVec 16) : State × Core :=
  let x := c.tiles[t]
  let cyc := s.part.dies[clusterDie (coreCluster c.index)].cycle
  let s1 := match x.stamp with
    | some st => writeStamp s c.vdid (stampBytes c t.val { st with flags := st.flags ||| extra } cyc)
    | none => s
  (endTileReuse s1 c.index x.base, { c with tiles := c.tiles.set t Tile.empty })

/-- Every tile of a core that is not empty goes to empty (R163, R345). -/
def emptyTiles (s : State) (c : Core) : State × Core :=
  (List.finRange 64).foldl (fun p t => if p.2.tiles[t].st == .empty then p else emptyTile p.1 p.2 t 4) (s, c)

/-! ## Kill (R345) and supervisor entry (R347) -/

/-- A sequencer at rest. Its requests in flight stay in flight until they complete or are dropped (R113); the value of an a.ldidx
among them is wanted by nobody any more. -/
def Advice.fresh (a : Advice) : Advice :=
  { Advice.off with reqs := a.reqs, acts := a.acts, skipped := a.skipped, ldidx := a.ldidx.map (fun r => { r with d := none }) }

/-- The sequencer goes to off; the buffer of the group, its addresses and a stop that holds for the group stay (R109, R163).
ADVST.cur and pc read 0 while it is off (DESIGN CHOICE: R118 does not say; log 52). -/
def Advice.toOff (a : Advice) : Advice :=
  { a.fresh with barred := a.barred, cause := a.cause, buffer := a.buffer, aentry := a.aentry, ctab := a.ctab }

/-- What a core loses when its group is killed: queues, engines, tiles, accumulators, lanes, advice. -/
def Core.discard (c : Core) : Core :=
  { c with
    vq := Vector.replicate 4 [], q4 := [], q5 := [], q6 := [], q7 := [], viq := [], vmq := [], defer := []
    acqSeq := 0, copies := [], streams := Vector.replicate 4 none, mats := [], want := 0, acc := 0, lanes := 0
    colls := Vector.replicate 8 none
    adv := c.adv.toOff
    wait := .none, entry := none, view := .u, held := true, late := 0 }

/-- s56 to s63 exchanged with the S bank (R347, R348). -/
def Core.swapBank (c : Core) : Core :=
  { c with s := Vector.ofFn (fun i : Fin 64 => if h : 56 ≤ i.val then c.sBank[i.val - 56] else c.s[i])
           sBank := Vector.ofFn (fun j : Fin 8 => c.s[j.val + 56]) }

/-- A waiter of a killed core leaves the semaphore queues and the FIFO banks; bits it holds stay. -/
def leaveSems (s : State) (i : Fin 1024) : State :=
  updCl s (coreCluster i) (fun c => { c with semWait := c.semWait.filter (fun w => w.2 != i)
                                             semGrant := c.semGrant.filter (fun w => w.2 != i)
                                             fifoWait := c.fifoWait.filter (fun w => w.core != i) })

/-- One core of a killed group; one in the supervisor has its bank as the last eret left it (R347). -/
def killCore (s : State) (i : Fin 1024) : State :=
  let c := s.getCore i
  let c := match c.entry with
    | some e => { c.swapBank with sBank := e.bank }
    | none => c
  let p := emptyTiles s c
  leaveSems (p.1.putCore { p.2.discard with run := .done }) i

/-- The cores of a group, the active one first when it is one of them. -/
def groupCores (s : State) (g : BitVec 32) : List (Fin 1024) :=
  (s.cores.filter (inGroup g)).map (·.index)

/-- Rounds that await the contribution of a killed core: sent by another rank and not by this one, or not yet sent out of
its matrix unit; the part's abort of each is its next event (R376). -/
def owedRounds (p : Part) (c : Core) : List (Nat × Nat) :=
  ((List.finRange 8).flatMap (fun j => match c.colls[j] with
    | none => []
    | some x =>
      let ks := p.contribs.filter (fun k => k.id == x.id)
      let open_ := (ks.map (·.round)).filter (fun r => !ks.any (fun k => k.round == r && k.rank == x.rank))
      let own := c.mats.filterMap (fun m => match m.ins with
        | .mdrainf _ slot _ => if slot = j then some m.round else none
        | _ => none)
      (open_ ++ own).map (fun r => (x.id.toNat, r)))).eraseDups

/-- The stamp records of the tiles that a saved core of a killed group had open (R315, R345). -/
def stampSaved (s : State) (c : Core) : State :=
  let cyc := s.part.dies[clusterDie (coreCluster c.index)].cycle
  (List.finRange 64).foldl (fun t i => match (c.tiles[i]).stamp with
    | some st => writeStamp t c.vdid (stampBytes c i.val { st with flags := st.flags ||| 4 } cyc)
    | none => t) s

/-- A group is killed: its cores stop and lose what R345 lists; a save is discarded; the fault add follows as
KILL_FINISH_ADD. A core that belongs to no group is stopped alone. -/
def killGroup (s : State) (g : BitVec 32) : State :=
  let owed := ((s.cores.filter (inGroup g)).flatMap (owedRounds s.part)).eraseDups
  let s1 := (groupCores s g).foldl killCore s
  let s2 := match findGroup s1.part g with
    | some x =>
      let t := x.saved.foldl stampSaved s1
      { t with part := setGroup t.part { x with killed := true, saved := [], kept := [], keptPoison := [], preempt := false } }
    | none => s1
  { s2 with agenda := s2.agenda ++ owed.map (fun r => Turn.event (.collectiveAbort r.1 r.2)) }

/-- Every other core of the group is held; one that ran may still finish the instruction it is in, within 2 µs (R341). -/
def holdOthers (s : State) : State :=
  let g := s.core.cgid
  { s with rest := s.rest.map (fun c => if inGroup g c && c.entry.isNone then
      { c with held := true, late := if c.held then c.late else 2000 } else c) }

def supervisorPc : Word := 0x0000FFFFFFFF0000

/-- The supervisor is entered on the active core: view S, the bank exchanged, s56 the record's address and s57 the kind,
the pc at the entry address; entry acts as fence.acqrel.dev, so the cluster's W lines go home (R347). `stop` is the place of a
queued instruction whose fault is taken. -/
def enterSupervisor (s : State) (kind : BitVec 8) (ret record : Word) (vector : Bool) (w : Wait) (page : Option Word)
    (stop : Option Nat) : State :=
  let s1 := flushAllW (holdOthers s) s.cl
  s1.updCore (fun c =>
    { (((c.swapBank).setSreg 56 record).setSreg 57 (kind.zeroExtend 64)) with
      view := .s, pc := supervisorPc, wait := .none, held := false, late := 0
      entry := some ⟨kind, ret, vector, w, page, 0, stop, c.sBank⟩ })

/-- A fault that kills: its record, with the killing flag, then the kill (R345, R346). -/
def takeKill (s : State) (f : FaultInfo) : State :=
  killGroup (coreRecord s f false true).1 s.core.cgid

/-- TAKING A FAULT on the active core (R341, R342, R347, R348). In the S view every fault is one of kind supervisor and
kills. Elsewhere a repair kind writes its record and enters the supervisor, and every other kind kills the group; during a
pre-emption save every kind does (R346). `ret` is where eret goes on. -/
def takeFaultRet (s : State) (f : FaultInfo) (ret : Word) (w : Wait) (stop : Option Nat := none) : State :=
  if s.core.view == .s then takeKill s { f with kind := kSupervisor }
  else if repairKind f.kind && s.core.run != .yielded then
    let r := coreRecord s f true false
    enterSupervisor r.1 f.kind ret r.2 false w f.addr stop
  else takeKill s f

/-- A fault that the AP takes at its boundary: before an entry, what it has queued is performed (R347). -/
def takeApFault (s : State) (f : FaultInfo) (ret : Word) (w : Wait) : State :=
  if repairKind f.kind && entryWaits s then s.waitAs .behind else takeFaultRet s f ret w

/-- A precise fault of the AP's own instruction: eret issues it again (R348). -/
def takeFault (s : State) (f : FaultInfo) : State := takeApFault s f s.core.pc .none

/-- The AP's instruction faults. -/
def raise (s : State) (kind : BitVec 8) : Out := .next (takeFault s (apFault s kind))

def raiseAt (s : State) (kind : BitVec 8) (sub : Nat) (addr : Word) : Out :=
  .next (takeFault s (apFaultAt s kind sub addr))

/-- A fault of the EP's or the vector memory queue's instruction: pc and strip are its own, resume is the instruction at which
the AP goes on: its next one, or in the supervisor the one after eret (R343). Every such kind but vector-partial kills. -/
def capFault (s : State) (c : Capture) (kind : BitVec 8) (element : Option (BitVec 32)) : FaultInfo :=
  { kind := kind, pc := c.pc, strip := c.stripBase, element := element, resume := (s.core.entry.map Entry.ret).getD s.core.pc }

/-- A fault of a queued instruction that kills is taken at once, also while the AP is in the supervisor: it is none of the
supervisor's own instructions (R346, R348). -/
def takeQueueKill (s : State) (f : FaultInfo) (sup : Bool) : State :=
  takeKill s (if sup then { f with kind := kSupervisor } else f)

/-- Cached translations that cover an address of the active core's virtual device are dropped where the core would use
them: what is issued again translates afresh (R287, R348). -/
def freshPage (s : State) (page : Option Word) : State :=
  match page with
  | none => s
  | some a =>
    let v := s.core.vdid
    let leaf (t : TlbEntry) : Bool := !(t.vdid == v && decide (t.base ≤ a.toNat ∧ a.toNat < t.base + 2 ^ (leafShift t.level)))
    let ptr (t : PtrEntry) : Bool := !(t.vdid == v && decide (t.base ≤ a.toNat ∧ a.toNat < t.base + 2 ^ (entryShift t.level)))
    let s1 := updCl s s.cl (fun c => { c with tlb := c.tlb.filter leaf, ptrs := c.ptrs.filter ptr })
    let d := s.die
    { s1 with core := { s1.core with tlb := s1.core.tlb.filter leaf }
              part := { s1.part with dies := s1.part.dies.set d { s1.part.dies[d] with ptrs := (s1.part.dies[d]).ptrs.filter ptr } } }

/-- RETURN FROM THE SUPERVISOR (R348): the bank exchanged back, W lines home, view U, the pc at the return point, the
faulting page to be translated afresh; the group runs on once every entered core of it has returned (R346). -/
def returnFromSupervisor (s : State) (e : Entry) : State :=
  let s1 := freshPage (flushAllW s s.cl) e.page
  let others := s1.rest.any (fun c => inGroup s.core.cgid c && c.entry.isSome)
  let s2 := s1.updCore (fun c => { c.swapBank with view := .u, pc := e.ret, entry := none, wait := e.wait, held := others, late := 0 })
  if others then s2
  else { s2 with rest := s2.rest.map (fun c => if inGroup s.core.cgid c then { c with held := false, late := 0 } else c) }

/-- Whether a count of corrected errors is that of a record's unit. -/
def CorrectedCount.isOf (x : CorrectedCount) (r : LogRec) : Bool := x.unit.kind == r.unit.toNat && x.unit.index == r.index.toNat

/-- One record in the firmware log ring, with the corrected errors of its unit since the unit's last record (R381, R382). -/
def logRecord (s : State) (r : LogRec) : State :=
  let full := decide (4096 ≤ s.part.fwLog.length)
  let n := ((s.part.corrected.find? (fun x => x.isOf r)).map (·.count)).getD 0
  { s with free := s.free + 1
           part := { s.part with
             fwLog := (if full then s.part.fwLog.drop 1 else s.part.fwLog) ++ [{ r with count := BitVec.ofNat 32 (min n (2 ^ 32 - 1)) }]
             fwLost := s.part.fwLost + (if full then 1 else 0)
             corrected := s.part.corrected.map (fun x => if x.isOf r then { x with count := 0 } else x) } }

def mcRecord (s : State) (severity code unit index : Nat) (addr : Word) (mask : BitVec 64) : LogRec :=
  { severity := BitVec.ofNat 8 severity, code := BitVec.ofNat 8 code, unit := BitVec.ofNat 8 unit
    index := BitVec.ofNat 32 index, addr := addr, syndrome := Config.syndrome s.free, count := 0, vdmask := mask
    time := s.part.tstamp }

/-- The fault of a generic access of the AP (kind, level, address); a walk that read poison also logs a machine check of
code walk-poison, its index the die (R371, R383). -/
def walkPoisonLog (s : State) (f : XFault) : State :=
  if f.kind == kData then
    logRecord s (mcRecord s 2 6 12 s.die.val 0 (BitVec.ofNat 64 (2 ^ s.core.vdid.toNat)))
  else s

def raiseX (s : State) (f : XFault) (va : Word) : Out :=
  if repairKind f.kind && entryWaits s then .next (s.waitAs .behind)
  else
  let s1 := walkPoisonLog (walkedTo s f) f
  .next (takeFault s1 (apFaultAt s1 f.kind f.level va))

end Sys2Proof.Machine
end

