-- ==== Sys2Proof/Machine/Operands.lean ====
section
/-! DEFINITION. Operand forms: source b of class 0 (R147), address fields (R142, R149, R196, R197), literals (R138), and
the bytes each form takes (R134). -/

namespace Sys2Proof.Machine

open Sys2Proof

/-- Bytes of an instruction by form: one word, three words, or five (R134). -/
def len1 : Nat := 4
def len3 : Nat := 12
def len5 : Nat := 20

def extLen (ext : Bool) : Nat := if ext then len3 else len1

def srcBLen : SrcB → Nat
  | .reg ext _ => extLen ext
  | .imm6 _ => len1
  | .imm32 _ _ => len3
  | .lit ext _ => if ext then len5 else len3

/-- Source b of class 0 (R147). -/
def srcBVal (s : State) : SrcB → Word
  | .reg _ b => s.sreg b
  | .imm6 v => v.signExtend 64
  | .imm32 _ v => v.signExtend 64
  | .lit _ v => v

def addrBLen : AddrB → Nat
  | .reg _ => len1
  | .lit _ => len3
  | .ext _ _ => len3
  | .extLit _ _ => len5

/-- The address of a class-1 load or store (R142, R149). -/
def addrBVal (s : State) (a : SReg) : AddrB → Word
  | .reg b => s.sreg a + s.sreg b
  | .lit v => s.sreg a + v
  | .ext b off => s.sreg a + s.sreg b + off.signExtend 64
  | .extLit v off => s.sreg a + v + off.signExtend 64

def regLitLen : RegLit → Nat
  | .reg _ => len3
  | .lit _ => len5

def regLitVal (s : State) : RegLit → Word
  | .reg b => s.sreg b
  | .lit v => v

def addrXLen : AddrX → Nat
  | .reg _ _ => len3
  | .lit _ _ => len5

/-- Offset register or literal, plus the signed word 2 (R197). -/
def addrXVal (s : State) : AddrX → Word
  | .reg b off => s.sreg b + off.signExtend 64
  | .lit v off => v + off.signExtend 64

def pushSrcLen : PushSrc → Nat
  | .reg _ => len1
  | .imm32 _ _ => len3
  | .lit _ => len3

/-- The value of a qpush (R158). -/
def pushSrcVal (s : State) : PushSrc → Word
  | .reg b => s.sreg b
  | .imm32 _ v => v.signExtend 64
  | .lit v => v

def ccSrcLen : CcSrc → Nat
  | .reg _ => len1
  | .lit _ => len3
  | .extReg _ _ => len3
  | .extLit _ _ => len5

def ccSrcVal (s : State) : CcSrc → Word
  | .reg b | .extReg b _ => s.sreg b
  | .lit v | .extLit v _ => v

/-- A branch target: address + 4 x sext(word 2) (R154). -/
def branchTarget (s : State) (off : BitVec 32) : Word := s.core.pc + 4 * off.signExtend 64

/-- Width in bytes and extension of a load (R142, R149). -/
def ldBytes : LdW → Nat
  | .i8 | .n8 => 1
  | .i16 | .n16 => 2
  | .i32 | .n32 => 4
  | .d64 => 8

def ldExtend (w : LdW) (v : Nat) : Word :=
  match w with
  | .i8 => (BitVec.ofNat 8 v).signExtend 64
  | .i16 => (BitVec.ofNat 16 v).signExtend 64
  | .i32 => (BitVec.ofNat 32 v).signExtend 64
  | .n8 => (BitVec.ofNat 8 v).zeroExtend 64
  | .n16 => (BitVec.ofNat 16 v).zeroExtend 64
  | .n32 => (BitVec.ofNat 32 v).zeroExtend 64
  | .d64 => BitVec.ofNat 64 v

def stBytes : StW → Nat
  | .b8 => 1
  | .b16 => 2
  | .b32 => 4
  | .b64 => 8

/-- Natural alignment (R71). -/
def alignedTo (a : Word) (n : Nat) : Bool := a.toNat % n == 0

/-- Element widths of setvl, and vlmax (R39). -/
def vwBits : VW → Nat
  | .w8 => 8
  | .w16 => 16
  | .w32 => 32
  | .w64 => 64

def vlmax (w : Nat) : Nat := 32768 / w

/-- Sizes coded 0 to 3: 1, 2, 4 and 8 bytes (R228, R230, R249). -/
def codeBytes (f : Fin 4) : Nat := 2 ^ f.val

def scopeCode : Scope → Nat
  | .core => 0
  | .clus => 1
  | .dev => 2
  | .sys => 3

end Sys2Proof.Machine
end

