-- ==== Sys2Proof/Machine/Groups.lean ====
section
/-! DEFINITION. Compute groups: levels and wave units (R30, R31), the placement algorithm (R34), the finish add (R32), and
what happens when the last virtual core of a wave or of a group has halted. -/

namespace Sys2Proof.Machine

open Sys2Proof

/-! ## Levels and placement -/

/-- A level of a launch record: domain, scope, extent (R30). -/
abbrev Level := Nat × Nat × Nat

def levelProd (l : List Level) : Nat := l.foldl (fun n x => n * x.2.2) 1

/-- The wave unit (R34): domain, virtual cores per unit, number of units. -/
def waveUnit : List Level → Nat → Option (Nat × Nat × Nat)
  | [], _ => none
  | x :: t, n => if x.1 = 0 then waveUnit t (n * x.2.2) else some (x.1, levelProd t, n * x.2.2)

/-- Cores of a hardware unit of a domain: die, cluster (a strip team's unit too), core (R31). -/
def unitCores (domain : Nat) : Nat := if domain = 1 then 256 else if domain = 4 then 1 else 8

/-- The lowest-indexed hardware unit with enough free cores: its lowest cores. -/
def pickUnit (free : List Nat) (per size : Nat) : List Nat → Option (List Nat)
  | [] => none
  | c :: t =>
    let l := free.filter (fun i => i / per == c)
    if size ≤ l.length then some (l.take size) else pickUnit free per size t

/-- The units that `free` names a core of, ascending. -/
def unitsOf (free : List Nat) (per : Nat) : List Nat := (free.map (fun i => i / per)).eraseDups

/-- The algorithm of R34 from unit u on: assignments of virtual to physical cores, and the first unit not started. A unit takes the
lowest free cores of its hardware unit, as R34 says, so that an inner level (a cluster level of a die unit) may come to lie in two
clusters, though R31 puts each instance of a level into one hardware unit (DESIGN CHOICE; log 70). -/
def assignUnits (per size : Nat) : Nat → Nat → List Nat → List (Nat × Nat) × Nat
  | 0, u, _ => ([], u)
  | n + 1, u, free =>
    match pickUnit free per size (unitsOf free per) with
    | none => ([], u)
    | some t =>
      let r := assignUnits per size n (u + 1) (free.filter (fun i => !t.contains i))
      ((t.zipIdx).map (fun p => (u * size + p.2, p.1)) ++ r.1, r.2)

def coreMask (l : List Nat) : BitVec 1024 := l.foldl (fun m i => m ||| BitVec.twoPow 1024 i) 0

/-- One wave of a record on free cores, from unit `first` on (R34). -/
def assignWave (lr : LaunchRec) (free : List Nat) (first : Nat) : List (Nat × Nat) × Nat :=
  match waveUnit lr.levels 1 with
  | none => ([], first)
  | some (d, size, units) => assignUnits (unitCores d) size (units - first) first free

/-- Units of a record. -/
def unitCount (lr : LaunchRec) : Nat := ((waveUnit lr.levels 1).map (fun x => x.2.2)).getD 0

/-! ## The finish add (R32) -/

/-- What the add meets. -/
inductive AddRes where
  | ok (s : State)
  | stall
  | bad (s : State)
  deriving DecidableEq, Repr

/-- An atomic add of the command processor to a word, through a virtual device's translations and charged as some work: bad
where the page or the word cannot take it, with pseen set where the word is poisoned (R282). -/
def commandAdd (s : State) (d : Vd) (w : Work) (va amount : Word) : AddRes :=
  let cl := vdCluster d
  match vdCheck s d .atomic va with
  | .fault f => .bad (walkedFor s cl d.vdid w f)
  | .stall => .stall
  | .ok x =>
    if (peek s cl x.pa 8).2 then .bad (setPseenAt (atomicPrep s cl d.vdid x.pa (partWay s x w)) cl d.vdid x.leafAddr)
    else
      let s1 := atomicPrep s cl d.vdid x.pa (partWay s x w)
      .ok (memPut s1 x.pa 8 ((homeValue s1 x.pa 8 + amount.toNat) % 2 ^ 64))

/-- Every W line of the clusters of a mask's cores goes home: the group's stores are released (R32). -/
def releaseCores (s : State) (mask : BitVec 1024) : State :=
  (List.finRange 128).foldl (fun s c => if mask.extractLsb' (8 * c.val) 8 == 0 then s else flushAllW s c) s

/-- A record of kind finish-add (R343). -/
def finishRecord (s : State) (v : BitVec 6) (cgid : BitVec 32) (fin : Word) : State :=
  let f : FaultInfo := { kind := kFinishAdd, pc := 0, strip := 0, addr := some fin }
  (writeRecord s v (recordBytes cgid 0xFFFF f (recordFlags f false false) s.part.tstamp)).1

/-- The fault add (R32). -/
def faultAmount : Word := 0x8000000000000001

/-- The add to a finish counter, or its record; none while the frame is closed for a handover. -/
def finishAdd (s : State) (v : BitVec 6) (cgid : BitVec 32) (fin amount : Word) : Option State :=
  if fin = 0 then some s
  else
    match findVd s.part v with
    | none => some s
    | some d =>
      match commandAdd s d (groupWork s.part cgid) fin amount with
      | .ok s1 => some s1
      | .stall => none
      | .bad s1 => some (finishRecord s1 v cgid fin)

/-! ## Ends -/

/-- A core that a group leaves: it is free, and record mode is off there (R163, R312). -/
def Core.leave (c : Core) : Core := { c with run := .off, dbg := { c.dbg with recMode := false } }

/-- The cores of a group are free (R345 step 6, R163). -/
def freeCores (s : State) (g : BitVec 32) : State :=
  s.mapCores (fun c => if inGroup g c then { c.leave with held := false, view := .u, entry := none, wait := .none } else c)

def dropGroup (p : Part) (g : BitVec 32) : Part := { p with groups := p.groups.filter (fun x => x.cgid != g) }

/-- A group that has no virtual core left, in this wave or a later one, finishes: the add, then its cores are free. -/
def finishGroup (s : State) (g : Group) : State :=
  match finishAdd (releaseCores s g.mask) g.vdid g.cgid g.lr.fin 1 with
  | none => s
  | some s1 => { (freeCores s1 g.cgid) with part := dropGroup s1.part g.cgid }

/-- The cores that a group holds: those that run it or wait in it, and all of its mask while a packet or a restore is to
start them (R163, R266). -/
def heldCores (s : State) (g : Group) : List Nat :=
  if g.st == .restoring || s.part.packets.any (fun k => k.cgid == g.cgid) then maskCores g.mask
  else ((s.cores.filter (inGroup g.cgid)).map (fun c => c.index.val)).mergeSort

/-- Whether a wave of the group has ended and units are still to be started. -/
def wantsWave (g : Group) : Bool := g.live == 0 && !g.killed && g.st == .running && decide (g.first < unitCount g.lr)

def wantsFinish (g : Group) : Bool := g.live == 0 && !g.killed && g.st == .running && !decide (g.first < unitCount g.lr)

/-- The virtual core of the active core has halted: the core is free at once unless a later wave may still need it; the
last core of the group finishes it (R32, R34, R163). -/
def haltInGroup (s : State) (cgid : BitVec 32) : State :=
  match findGroup s.part cgid with
  | none => s.updCore Core.leave
  | some g =>
    let g1 := { g with live := g.live - 1 }
    let s0 := if g1.first < unitCount g1.lr then s else s.updCore Core.leave
    let s1 := { s0 with part := setGroup s0.part g1 }
    if wantsFinish g1 then finishGroup s1 g1 else s1

/-! ## Accumulator tiles of a cluster (R211) -/

def bits4 (x : BitVec 4) : Nat := ((List.range 4).filter (fun i => x.getLsbD i)).length

/-- Whether a pre-empted group has been placed again: its restore packet is on its way, or its restore is under way. -/
def comesBack (p : Part) (g : Group) : Bool :=
  !g.killed && (g.st == .restoring || (g.st == .saved && p.packets.any (fun k => k.cgid == g.cgid)))

/-- Accumulator tiles that the cores which `p` picks have attached in a cluster, or that their restore will attach (R45). -/
def attached (s : State) (cl : Nat) (p : Core → Bool) : Nat :=
  (s.cores ++ (s.part.groups.filter (comesBack s.part)).flatMap (·.saved)).foldl
    (fun n c => if c.index.val / 8 == cl && p c then n + bits4 c.acc else n) 0

/-- Whether n more tiles are free in a cluster within a virtual device's quota. -/
def accRoom (s : State) (d : Vd) (cl n : Nat) : Bool :=
  decide (attached s cl (fun _ => true) + n ≤ 16) && decide (attached s cl (fun c => c.vdid == d.vdid) + n ≤ d.rate.acc)

end Sys2Proof.Machine
end

