-- ==== Sys2Proof/Machine/VecAddr.lean ====
section
/-! DEFINITION. Element addresses of the vector memory instructions (R196 to R198, R238, R240), whether a queued one may
touch a location that the AP accesses (R79, R209), and debug watch ranges (R309). -/

namespace Sys2Proof.Machine

open Sys2Proof

/-- Register element width of an instruction of the vector memory queue, and its width in memory in bytes (packed types
in vld and vst apart). -/
def vmSize (t : ElemTy) : Nat := t.memW / 8

/-- 32-bit element e of an index register, read unsigned (R197). -/
def idxOf (v : Vec) (e : Nat) : Nat := elemGet 32 e v

/-- s[b] or literal, plus the signed word 2, as captured (R196, R197). -/
def capOff (c : Capture) : Word := c.bVal

/-- The signed value of the capture's b operand, as a stride. -/
def unitAddr (c : Capture) (size e : Nat) : Word := c.aVal + c.bVal + BitVec.ofNat 64 (e * size)
def strideAddr (c : Capture) (e : Nat) : Word := c.aVal + c.bVal * BitVec.ofNat 64 e
def segAddr (c : Capture) (f size e i : Nat) : Word := c.aVal + c.bVal + BitVec.ofNat 64 ((e * f + i) * size)
def indexAddr (base : Word) (size : Nat) (iv : Vec) (e : Nat) : Word := base + BitVec.ofNat 64 (idxOf iv e * size)

/-- The byte address of bit `bit` of a packed array (R198). -/
def packedAddr (c : Capture) (bit : Nat) : Word := c.aVal + BitVec.ofNat 64 (bit / 8)

/-- The EP registers that an instruction of the queue reads, as they stand. -/
def VmDesc.grab (d : VmDesc) (c : Core) : VmRegs :=
  { data := d.data.map c.vreg
    idx := (d.idx.map c.vreg).getD 0
    comp := (d.comp.map c.vreg).getD 0
    mask := c.m[d.msk] }

/-! ## Accesses of an element -/

/-- Which space an access names (R196). -/
inductive Space where
  | gen | tag | loc | slice (off : Nat)
  deriving DecidableEq, Repr

/-- One access of an element: the address it reports, its space, bytes, the element's bits there (from bit `lo`, `bits`
of them, placed at `shift` of the value), and the field it belongs to. `bad` marks a slice offset that R72 forbids. -/
structure Raw where
  va : Word
  sp : Space
  n : Nat
  lo : Nat
  bits : Nat
  shift : Nat
  fld : Nat
  bad : Bool
  deriving DecidableEq, Repr

def whole (va : Word) (sp : Space) (n fld : Nat) : Raw := ⟨va, sp, n, 0, 8 * n, 0, fld, false⟩

/-- The space that the base fixes (R196, R208, R238). -/
def VmDesc.space (d : VmDesc) (c : Capture) : Space :=
  match d.kind with
  | .rred _ _ _ => .loc
  | .ust _ _ => .gen
  | _ => if c.aVal.getLsbD 63 then .tag else .gen

/-- The bytes of a packed element that starts at bit p of the array and has `bits` bits: one or two (R198, R51). -/
def packedRaw (sp : Space) (base : Word) (p bits : Nat) : List Raw :=
  let first := if p % 8 + bits ≤ 8 then bits else 8 - p % 8
  let a := base + BitVec.ofNat 64 (p / 8)
  ⟨a, sp, 1, p % 8, first, 0, 0, false⟩ ::
    (if first = bits then [] else [⟨a + 1, sp, 1, 0, bits - first, first, 0, false⟩])

/-- The accesses of a slice offset: one word of the slice, or two for 64-bit elements (R72, R197). -/
def laneRaw (sl : Word) (e size : Nat) : List Raw :=
  let bad := !alignedTo sl size || decide (0x4000 < sl.toNat + size)
  let at_ (o : Nat) : Space := .slice (o / 4 * 128 + e % 32 * 4 + o % 4)
  if size ≤ 4 then [⟨sl, at_ sl.toNat, size, 0, 8 * size, 0, 0, bad⟩]
  else [⟨sl, at_ sl.toNat, 4, 0, 32, 0, 0, bad⟩, ⟨sl, at_ (sl.toNat + 4), 4, 0, 32, 32, 0, bad⟩]

/-- The accesses of element e (R197, R198, R238, R240). The index of a packed element is o + e modulo 2^64 (log 56). -/
def VmDesc.raws (d : VmDesc) (c : Capture) (iv : Vec) (e : Nat) : List Raw :=
  let size := vmSize d.et
  let sp := d.space c
  match d.form with
  | .unit => [whole (unitAddr c size e) sp size 0]
  | .strided => [whole (strideAddr c e) sp size 0]
  | .seg f => (List.range f).map (fun i => whole (segAddr c f size e i) sp size i)
  | .index => [whole (indexAddr (c.aVal + c.bVal) size iv e) sp size 0]
  | .lane => laneRaw (c.aVal + c.bVal + (if d.idx.isSome then BitVec.ofNat 64 (idxOf iv e) else 0)) e size
  | .packed =>
    let k := (c.bVal.toNat + e) % 2 ^ 64
    packedRaw sp c.aVal (if d.et == .t6 then 24 * (k / 4) + 6 * (k % 4) else 4 * k) d.et.memW

/-! ## What a queued instruction may touch -/

/-- An untagged local address: bits 63..40 are required to be zero (R70). -/
def untagged (a : Word) : Option (BitVec 40) :=
  if a.extractLsb' 40 24 == 0 then some (a.extractLsb' 0 40) else none

/-- The byte that an address names now, as a number: of memory (false) or of local space (true); none where it does not
translate. -/
def spotOf (s : State) (sp : Space) (va : Word) : Option (Bool × Nat) :=
  let loc (l : Option (BitVec 40)) : Option (Bool × Nat) :=
    match l.map (localCheck s) with
    | some (.ok (.bytes k)) => some (true, k)
    | some (.ok (.fifo b)) => some (true, 2 ^ 61 + 16 * b.val)
    | _ => none
  match sp with
  | .slice o => some (true, coreKey s.core.index.val o)
  | .loc => loc (untagged va)
  | .tag => loc (match tagged va with
    | .loc l => some l
    | _ => none)
  | .gen =>
    match (if va.extractLsb' 48 16 != 0 then Check.stall else s.check .any va) with
    | .ok x => some (false, memKey s.part x.pa)
    | _ => none

def rangesMeet (a n b m : Nat) : Bool := decide (a < b + m ∧ b < a + n)

/-- Whether an access of a queued instruction and one of the AP name one byte: by their addresses, or by where both lead.
Two generic addresses that lead to one byte agree in the low 16 bits, which every translation keeps. -/
def rawMeets (s : State) (r : Raw) (a : Word) (n : Nat) : Bool :=
  let asp : Space := if a.getLsbD 63 then .tag else .gen
  if r.sp == .gen then
    asp == .gen &&
      (decide ((r.va.toNat + 2 ^ 64 - a.toNat) % 2 ^ 16 < n) || decide ((a.toNat + 2 ^ 64 - r.va.toNat) % 2 ^ 16 < r.n)) &&
      (rangesMeet r.va.toNat r.n a.toNat n
        || (match spotOf s .gen r.va, spotOf s .gen a with
          | some x, some y => rangesMeet x.2 r.n y.2 n
          | _, _ => false))
  else
    asp == .tag &&
      ((r.sp == .tag && rangesMeet r.va.toNat r.n a.toNat n)
        || (match spotOf s r.sp r.va, spotOf s .tag a with
          | some x, some y => rangesMeet x.2 r.n y.2 n
          | _, _ => false))

/-- Whether a queued instruction may touch the n bytes at a tagged address. One whose index register has still to be
written touches what is not yet known. -/
def vmTouches (s : State) (o : VmOp) (a : Word) (n : Nat) : Bool :=
  match vmDesc o.ins with
  | none => false
  | some d =>
    let regs := match o.regs with
      | some r => some r
      | none => if vmRegsReady s.core d o.cap.seq then some (d.grab s.core) else none
    match regs with
    | none =>
      if d.idx.isSome then (if d.form == .lane then a.getLsbD 63 else (d.space o.cap == .gen) != a.getLsbD 63)
      else (List.range o.cap.vl).any (fun e => (d.raws o.cap 0 e).any (fun r => rawMeets s r a n))
    | some r =>
      (List.range o.cap.vl).any (fun e =>
        (d.msk == 0 || r.mask.getLsbD e) && (d.raws o.cap r.idx e).any (fun q => rawMeets s q a n))

/-- Queued instructions whose fence holds a later access of the AP: a vector lock for any, a release for one that writes,
and a read that stands before an acquire of the AP for any (R81). -/
def vmqFences (s : State) (writes : Bool) : Bool :=
  s.core.openVmq.any (fun o => vmAcquires o || (writes && vmReleases o) || (decide (o.cap.seq < s.core.acqSeq) && vmReads o))

/-- A queued vector memory instruction that may touch the n bytes at a tagged address, or whose fence orders it, holds the
AP's access back (R79, R81, R209). -/
def vmqHolds (s : State) (a : Word) (n : Nat) (writes : Bool) : Bool :=
  vmqFences s writes || s.core.openVmq.any (fun o => vmTouches s o a n)

/-! ## Debug stops (R309) -/

/-- The group of the active core stops: this core with a cause, the others with cause 5. -/
def stopGroup (s : State) (cause bp : Nat) : State :=
  let g := s.core.cgid
  let s1 := s.updCore (fun c => { c with dbg := { c.dbg with st := .stopped, cause := BitVec.ofNat 4 cause, bp := BitVec.ofNat 3 bp } })
  let s2 := { s1 with rest := s1.rest.map (fun c =>
    if inGroup g c && c.dbg.st != .stopped then { c with dbg := { c.dbg with st := .stopped, cause := 5, bp := 0 } } else c) }
  match findGroup s2.part g with
  | some x => { s2 with part := setGroup s2.part { x with stopped := true } }
  | none => s2

/-- Whether a watch range matches an access (R308, R309). -/
def watchMatches (c : Core) (i : Fin 2) (va : Word) (n : Nat) (store : Bool) : Bool :=
  let l := c.dbg.wpl[i]
  let len := (l.extractLsb' 0 21).toNat
  l.getLsbD 63 && decide (1 ≤ len ∧ len ≤ 2 ^ 20) && (store || !l.getLsbD 62) &&
    decide (va.toNat < (c.dbg.wpa[i]).toNat + len ∧ (c.dbg.wpa[i]).toNat < va.toNat + n)

/-- A generic access of the core has been performed: the group stops where a watch range matches. -/
def watch (s : State) (va : Word) (n : Nat) (store : Bool) : State :=
  if watchMatches s.core 0 va n store then (stopGroup s 3 0).updCore (fun c => { c with waddr := va })
  else if watchMatches s.core 1 va n store then (stopGroup s 3 1).updCore (fun c => { c with waddr := va })
  else s

end Sys2Proof.Machine
end

