-- ==== Sys2Proof/Machine/ScalarMem.lean ====
section
/-! DEFINITION. Class 1: scalar loads and stores (R149), atomics (R150 to R152) and the communication registers (R153). -/

namespace Sys2Proof.Machine

open Sys2Proof

/-! ## Generic loads and stores -/

/-- A scalar load of n bytes from generic memory: R356's order of checks, then `k` of the state after and the value. -/
def loadGen (s : State) (va : Word) (n : Nat) (k : State → Nat → Out) : Out :=
  if va.extractLsb' 48 16 != 0 then raiseAt s kAddressRange 3 va
  else if !alignedTo va n then raiseAt s kAlignment 0 va
  else if vmqHolds s va n false then .next (s.waitAs .behind)
  else
    match s.check .load va with
    | .fault f => raiseX s f va
    | .stall => .next (s.waitAs .other)
    | .ok x =>
      if loadHeld s s.cl x.pa n then .next (s.waitAs .other)
      else
      let s1 := loadPrep s s.cl s.core.vdid x.pa n (s.way x va false)
      if linePoisoned s1 s1.cl x.pa n then raiseAt (setPseen s1 x.leafAddr) kData 0 va
      else k s1 (lineRead s1 s1.cl x.pa n)

/-- A scalar store of n bytes to generic memory. -/
def storeGen (s : State) (va : Word) (n val : Nat) (k : State → Out) : Out :=
  if va.extractLsb' 48 16 != 0 then raiseAt s kAddressRange 3 va
  else if !alignedTo va n then raiseAt s kAlignment 0 va
  else if vmqHolds s va n true then .next (s.waitAs .behind)
  else
    match s.check .store va with
    | .fault f => raiseX s f va
    | .stall => .next (s.waitAs .other)
    | .ok x => k (genStore s s.cl s.core.vdid x.pa n val (s.way x va false))

/-- ld (R149, R356). -/
def execLd (w : LdW) (d a : SReg) (o : AddrB) (s : State) : Out :=
  let va := addrBVal s a o
  loadGen s va (ldBytes w) (fun s1 v => .next (watch (s1.retire d (ldExtend w v) (addrBLen o)) va (ldBytes w) false))

/-- st (R149, R356). -/
def execSt (w : StW) (d a : SReg) (o : AddrB) (s : State) : Out :=
  let va := addrBVal s a o
  storeGen s va (stBytes w) (s.sreg d).toNat
    (fun s1 => .next (watch (s1.advance (addrBLen o)) va (stBytes w) true))

/-! ## Local loads and stores -/

/-- The place of a scalar local access of n bytes, in R356's order: R70, alignment, the width of a FIFO access. -/
def locAccess (s : State) (a : Option (BitVec 40)) (n : Nat) (va : Word) (writes : Bool) (k : Place → Out) : Out :=
  match a with
  | none => raiseAt s kLocalSpace 0 va
  | some l =>
    match localCheck s l with
    | .bad => raiseAt s kLocalSpace 0 va
    | .stall => .next (s.waitAs .other)
    | .ok p =>
      if !alignedTo va n then raiseAt s kAlignment 0 va
      else if vmqHolds s (va ||| 0x8000000000000000) n writes then .next (s.waitAs .behind)
      else k p

/-- ldl (R149, R75): a FIFO bank pops, or makes the AP wait while it is empty. -/
def execLdl (w : LdW) (d a : SReg) (o : AddrB) (s : State) : Out :=
  let va := addrBVal s a o
  let n := ldBytes w
  locAccess s (untagged va) n va false (fun p =>
    match p with
    | .bytes key =>
      if touchesPoison s.locPoison key n then raiseAt s kData 0 va
      else .next ((chargeLocal s key n false).retire d (ldExtend w (s.loc.readN key n)) (addrBLen o))
    | .fifo b =>
      if n != 8 then raiseAt s kLocalSpace 0 va
      else
        match (if fifoTurn s b false false then (getCl s s.cl).fifo[b] else []) with
        | [] => .next ((fifoArrive s b false false).waitAs (.fifo b))
        | x :: t => if (getCl s s.cl).fifoBad.contains (b, 0) then raiseAt s kData 0 va
          else .next ((fifoServed s b false false t).retire d x (addrBLen o)))

/-- stl (R149, R75): a FIFO bank takes the entry, or makes the AP wait while it is full. Each bank serves the pops, and the
pushes, in the order they have arrived. -/
def execStl (w : StW) (d a : SReg) (o : AddrB) (s : State) : Out :=
  let va := addrBVal s a o
  let n := stBytes w
  locAccess s (untagged va) n va true (fun p =>
    match p with
    | .bytes key => .next ((locPut (chargeLocal s key n true) key n (s.sreg d).toNat).advance (addrBLen o))
    | .fifo b =>
      if n != 8 then raiseAt s kLocalSpace 0 va
      else
        let f := (getCl s s.cl).fifo[b]
        if 16384 ≤ f.length || !fifoTurn s b true false then .next ((fifoArrive s b true false).waitAs (.fifo b))
        else .next ((fifoServed s b true false (f ++ [s.sreg d])).advance (addrBLen o)))

/-! ## Atomics -/

/-- What an ordering suffix does before the atomic: as fence.rel, W lines go home (R81, R152). -/
def ordReleases : AmoOrd → Bool
  | .rel | .acqrel => true
  | _ => false

def ordPrep (s : State) (o : AmoOrd) : State := if ordReleases o then flushAllW s s.cl else s

def ordAcquires : AmoOrd → Bool
  | .acq | .acqrel => true
  | _ => false

/-- What it does behind the atomic: as fence.acq, the reads queued until now hold every later access (R81, R152). -/
def ordAfter (s : State) (o : AmoOrd) : State := if ordAcquires o then s.acquire else s

/-- A scalar atomic of n bytes at a tagged address, in R357's order. `f` gives the new memory value of the old one, or
none where nothing is written; `k` takes the state after and the old value. -/
def atomicAt (s : State) (va : Word) (n : Nat) (ord : AmoOrd) (f : Nat → Option Nat) (k : State → Nat → Out) : Out :=
  match tagged va with
  | .badLoc => raiseAt s kLocalSpace 0 va
  | .loc l =>
    match localCheck s l with
    | .bad => raiseAt s kLocalSpace 0 va
    | .stall => .next (s.waitAs .other)
    | .ok (.fifo _) => raiseAt s kLocalSpace 0 va
    | .ok (.bytes key) =>
      if !alignedTo va n then raiseAt s kAlignment 0 va
      else if vmqHolds s va n true || (ordReleases ord && releaseWaits s) then .next (s.waitAs .behind)
      else if touchesPoison s.locPoison key n then raiseAt s kData 0 va
      else
        let s1 := chargeLocal (ordPrep s ord) key n true
        let m := s1.loc.readN key n
        match f m with
        | some m' => k (ordAfter (locPut s1 key n m') ord) m
        | none => k (ordAfter s1 ord) m
  | .gen g =>
    if g.extractLsb' 48 16 != 0 then raiseAt s kAddressRange 3 va
    else if !alignedTo va n then raiseAt s kAlignment 0 va
    else if vmqHolds s va n true || (ordReleases ord && releaseWaits s) then .next (s.waitAs .behind)
    else
      match s.check .atomic g with
      | .fault x => raiseX s x va
      | .stall => .next (s.waitAs .other)
      | .ok x =>
        if (peek s s.cl x.pa n).2 then
          raiseAt (setPseen (atomicPrep s s.cl s.core.vdid x.pa (s.way x g false)) x.leafAddr) kData 0 va
        else
          let s1 := atomicPrep (ordPrep s ord) s.cl s.core.vdid x.pa (s.way x g false)
          let m := homeValue s1 x.pa n
          match f m with
          | some m' => k (ordAfter (watch (memPut s1 x.pa n m') va n true) ord) m
          | none => k (ordAfter (watch s1 va n true) ord) m

/-- The new memory value of amo (R150). -/
def amoNew (op : AmoOp) (w m y : Nat) : Nat :=
  let im := intDecode w true m
  let iy := intDecode w true y
  match op with
  | .add => (m + y) % 2 ^ w
  | .min => if im ≤ iy then m else y
  | .max => if iy ≤ im then m else y
  | .minn => if m ≤ y then m else y
  | .maxn => if y ≤ m then m else y
  | .and => m &&& y
  | .or => m ||| y
  | .xor => m ^^^ y
  | .swap => y

def amoSigned : AmoOp → Bool
  | .min | .max => true
  | _ => false

/-- The old value as amo writes it to s[d]: sign-extended for min and max, else zero-extended (R150). -/
def amoResult (op : AmoOp) (w old : Nat) : Word :=
  if amoSigned op then BitVec.ofInt 64 (intDecode w true old) else BitVec.ofNat 64 old

/-- amo (R150, R357). -/
def execAmo (op : AmoOp) (ord : AmoOrd) (w64 : Bool) (_sc : Scope) (d a b : SReg) (off : BitVec 32) (s : State) : Out :=
  let w := if w64 then 64 else 32
  let va := s.sreg a + s.sreg b + off.signExtend 64
  let y := (s.sreg d).toNat % 2 ^ w
  atomicAt s va (w / 8) ord (fun m => some (amoNew op w m y)) (fun s1 m => .next (s1.retire d (amoResult op w m) len3))

/-- amo.cas (R151, R357): every check comes before the comparison. -/
def execAmoCas (ord : AmoOrd) (w64 : Bool) (_sc : Scope) (d a b c : SReg) (off : BitVec 32) (s : State) : Out :=
  let w := if w64 then 64 else 32
  let va := s.sreg a + s.sreg b + off.signExtend 64
  let expect := (s.sreg d).toNat % 2 ^ w
  let new := (s.sreg c).toNat % 2 ^ w
  atomicAt s va (w / 8) ord (fun m => if m = expect then some new else none)
    (fun s1 m => .next (s1.retire d (BitVec.ofNat 64 m) len3))

/-! ## Communication registers (R153) -/

def semOk (s : State) (j : Fin 64) : Bool :=
  s.core.xmask.getLsbD 11 && ((s.vd.map (fun d => d.sems.getLsbD j.val)).getD false)

def cdOk (s : State) (j : Fin 32) : Bool :=
  s.core.xmask.getLsbD 11 && ((s.vd.map (fun d => d.cds.getLsbD j.val)).getD false)

/-- A sem or cd register of the cluster has changed: a `wait` there is over (R162). -/
def endClockWaits (s : State) (cl : Fin 128) : State :=
  s.mapCores (fun c => match c.wait with
    | .clocks _ => if coreCluster c.index == cl then { c with wait := .clocks 0 } else c
    | _ => c)

def setSem (s : State) (j : Fin 64) (b : Bool) : State :=
  if (getCl s s.cl).sem.getLsbD j.val == b then s
  else endClockWaits (updCl s s.cl (fun c =>
    { c with sem := if b then c.sem ||| BitVec.twoPow 64 j.val else c.sem &&& ~~~(BitVec.twoPow 64 j.val) })) s.cl

def setCd (s : State) (j : Fin 32) (v : Word) : State :=
  if (getCl s s.cl).cd[j] == v then s
  else endClockWaits (updCl s s.cl (fun c => { c with cd := c.cd.set j v })) s.cl

def semBusy (c : Cluster) (j : Fin 64) : Bool :=
  c.sem.getLsbD j.val || c.semWait.any (fun w => w.1 == j)

/-- semtas: takes a granted bit, or a free one, or joins the queue of the bit and waits; the grant acquires (R49, R81, R153). -/
def execSemtas (j : Fin 64) (s : State) : Out :=
  let c := getCl s s.cl
  let me := s.core.index
  if !semOk s j then raise s kLocalSpace
  else if c.semGrant.contains (j, me) then
    .next (((updCl s s.cl (fun x => { x with semGrant := x.semGrant.filter (fun w => w != (j, me)) })).acquire).advance len1)
  else if c.semWait.contains (j, me) then .next (s.waitAs (.sem j))
  else if !semBusy c j then .next (((setSem s j true).acquire).advance len1)
  else .next ((updCl s s.cl (fun x => { x with semWait := x.semWait ++ [(j, me)] })).waitAs (.sem j))

def execSemtry (d : SReg) (j : Fin 64) (s : State) : Out :=
  if !semOk s j then raise s kLocalSpace
  else if semBusy (getCl s s.cl) j then .next (s.retire d 0 len1)
  else .next (((setSem s j true).acquire).retire d 1 len1)

def execSemset (j : Fin 64) (s : State) : Out :=
  if !semOk s j then raise s kLocalSpace else .next ((setSem s j true).advance len1)

/-- semclr: releases; the bit passes to the oldest waiter, or clears. As a release it waits for the vector memory queue
and sends W lines home. -/
def execSemclr (j : Fin 64) (s : State) : Out :=
  if !semOk s j then raise s kLocalSpace
  else if releaseWaits s then .next (s.waitAs .behind)
  else
    let s1 := flushAllW s s.cl
    match (getCl s1 s1.cl).semWait.find? (fun w => w.1 == j) with
    | some w =>
      .next ((updCl s1 s1.cl (fun x =>
        { x with semWait := x.semWait.erase w, semGrant := x.semGrant ++ [w] })).advance len1)
    | none => .next ((setSem s1 j false).advance len1)

def execCdrd (d : SReg) (j : Fin 32) (s : State) : Out :=
  if !cdOk s j then raise s kLocalSpace
  else if vmqFences s false then .next (s.waitAs .behind)
  else .next (s.retire d (getCl s s.cl).cd[j] len1)

def execCdwr (j : Fin 32) (a : SReg) (s : State) : Out :=
  if !cdOk s j then raise s kLocalSpace
  else if vmqFences s true then .next (s.waitAs .behind)
  else .next ((setCd s j (s.sreg a)).advance len1)

def execCdadd (d : SReg) (j : Fin 32) (a : SReg) (s : State) : Out :=
  if !cdOk s j then raise s kLocalSpace
  else if vmqFences s true then .next (s.waitAs .behind)
  else
    let old := (getCl s s.cl).cd[j]
    .next ((setCd s j (old + s.sreg a)).retire d old len1)

end Sys2Proof.Machine
end

