-- ==== Sys2Proof/Machine/EpCore.lean ====
section
/-! DEFINITION. How the execute processor reads and writes: captures at issue (R36, R55), sources and queue pops (R168,
R37), the checks of class 3 (R169, R170, R353), predicates, and the frame that every class-3 effect runs in. -/

namespace Sys2Proof.Machine

open Sys2Proof

/-! ## Captures -/

/-- What an instruction of n bytes takes from the AP at its issue; `a` and `b` are the values of its scalar fields. -/
def capture (s : State) (a b : Word) (n : Nat) : Capture :=
  { seq := s.core.seq, pc := s.core.pc, vl := s.core.vl, rm := s.core.rm, seed := s.core.seed
    stripBase := s.core.stripBase, stripNext := s.core.stripNext, team := s.core.team, aVal := a, bVal := b
    next := s.core.pc + BitVec.ofNat 64 n, sup := s.core.view == .s }

/-- The rounding mode that a code of VCTL.rm names (R135). -/
def rmOfCode (c : BitVec 3) : Rm :=
  match c.toNat with
  | 0 => .rne
  | 1 => .rtz
  | 2 => .rdn
  | 3 => .rup
  | 4 => .rna
  | 5 => .rs
  | _ => .rne

/-- The mode in force: dyn takes VCTL.rm as captured (R55). -/
def effRm (rm : Rm) (c : Capture) : Rm :=
  match rm with
  | .dyn => rmOfCode c.rm
  | r => r

/-- The random bits of element e (R57). -/
def elemRnd (c : Capture) (e : Nat) : Nat := rsBits c.seed ((c.stripBase.toNat + e) % 2 ^ 32)

/-! ## Outcomes -/

/-- What an EP instruction does when the EP reaches it: done, waiting on a queue with nothing changed, or a fault with the
number of a register and a queue code. -/
inductive EpRes where
  | done (c : Core)
  | blocked
  | fault (kind : BitVec 8) (element : Option (BitVec 32)) (sub : BitVec 16)
  deriving DecidableEq, Repr

/-! ## Sources -/

/-- A source as read: a register, an entry of q0 to q3, a scalar, or the bit of q7. -/
inductive SVal where
  | vec (v : Vec)
  | ent (q : QEntry)
  | scal (x : Word)
  | bit (b : Bool)
  deriving DecidableEq, Repr

/-- A pop or push on a queue restarts the queue watchdog (R389). -/
def Core.moved (c : Core) : Core := { c with queueEdges := 0 }


/-- One source read, popping its queue; none while the queue is empty (R37, R168). -/
def popSrc (c : Core) : VSrc → Option (Core × SVal)
  | .v r => some (c, .vec (c.vreg r))
  | .k r => some (c, .scal c.k[r])
  | .q j =>
    if h : j.val < 4 then
      match getVq c ⟨j.val, h⟩ with
      | [] => none
      | e :: t => some ({ c with vq := c.vq.set j.val t }.moved, .ent e)
    else if j = 4 then
      match c.q4 with
      | [] => none
      | x :: t => some ({ c with q4 := t }.moved, .scal x)
    else if j = 5 then
      match c.q5 with
      | [] => none
      | x :: t => some ({ c with q5 := t }.moved, .scal x)
    else
      match c.q7 with
      | [] => none
      | x :: t => some ({ c with q7 := t }.moved, .bit x)

def popB (c : Core) : VB → Option (Core × SVal)
  | .src x => popSrc c x
  | .lit v => some (c, .scal v)

/-- All sources in the order a, b, c, together or not at all (R168). -/
def popAll (c : Core) : List VB → Option (Core × List SVal)
  | [] => some (c, [])
  | x :: t =>
    match popB c x with
    | none => none
    | some p =>
      match popAll p.1 t with
      | none => none
      | some q => some (q.1, p.2 :: q.2)

/-- Element e of a source at a type, all bits of its register width (R168). The bit of q7 is the type's code of 0 or 1. An entry
popped at another width than it was pushed at counts its length in its own elements, and an element of which only a part lies
within the entry's data reads zero in the rest (DESIGN CHOICE: R37 and R168 speak of missing elements alone; log 54). -/
def sRaw (t : ElemTy) (x : SVal) (e : Nat) : Nat :=
  let w := t.regW
  match x with
  | .vec v => elemGet w e v
  | .ent q => if e < q.len then elemGet w e q.data else 0
  | .scal v => v.toNat % 2 ^ w
  | .bit b => if !b then 0 else if t.isFT then encElem t .rne false 0 (Num.ofInt 1) else 1

/-- Element e of a source as its type reads it: bits 7..6 of a t6 byte are ignored (R50). -/
def sElem (t : ElemTy) (x : SVal) (e : Nat) : Nat :=
  let r := sRaw t x e
  if t = .t6 then r % 64 else r

/-- The scalar operand n: the whole 64-bit value, or the bit of q7, read unsigned (R168). -/
def sScalar : SVal → Nat
  | .scal v => v.toNat
  | .bit b => if b then 1 else 0
  | .vec v => v.toNat % 2 ^ 64
  | .ent q => q.data.toNat % 2 ^ 64

/-! ## Checks -/

/-- The first poisoned register among those named (R43, R353 step 3). -/
def deadReg (c : Core) (l : List VReg) : Option VReg := l.find? (fun r => c.isPoisoned r)

def srcRegs : List VB → List VReg
  | [] => []
  | .src (.v r) :: t => r :: srcRegs t
  | _ :: t => srcRegs t

def regNum (r : VReg) : Option (BitVec 32) := some (BitVec.ofNat 32 r.val)

/-- A queue source that is empty while its stream is faulted (R387). -/
def streamFaulted (c : Core) : List VB → Option (Fin 4)
  | [] => none
  | .src (.q j) :: t =>
    if h : j.val < 4 then
      let i : Fin 4 := ⟨j.val, h⟩
      if (getVq c i).isEmpty && ((c.streams[i]).map (fun x => x.fault.isSome)).getD false then some i else streamFaulted c t
    else streamFaulted c t
  | _ :: t => streamFaulted c t

def popsPoison (l : List SVal) : Bool :=
  l.any (fun x => match x with
    | .ent q => q.poison != 0
    | _ => false)

/-- VL within vlmax of every width used, and within 1,024 where a mask is read or written per element (R169). -/
def vlOk (vl : Nat) (ws : List Nat) (masked : Bool) : Bool :=
  ws.all (fun w => decide (vl ≤ vlmax w)) && (!masked || decide (vl ≤ 1024))

/-! ## The frame of a class-3 effect -/

/-- The checks and pops that every class-3 instruction shares, in R353's order: poisoned registers, VL limits, then the
queues. `regs` are registers it reads beside `srcs`; `k` gets the core after the pops and the sources read. -/
def epFrame (c : Core) (cap : Capture) (srcs : List VB) (regs : List VReg) (ws : List Nat) (masked : Bool)
    (k : Core → List SVal → EpRes) : EpRes :=
  match deadReg c (srcRegs srcs ++ regs) with
  | some r => .fault kDeadRegister (regNum r) 0
  | none =>
    if !vlOk cap.vl ws masked then .fault kIllegalOperand none 0
    else
      match popAll c srcs with
      | none =>
        match streamFaulted c srcs with
        | some j => .fault kStream none (BitVec.ofNat 16 (32 + j.val))
        | none => .blocked
      | some p => if popsPoison p.2 then .fault kData none 0 else k p.1 p.2

/-- Whether element e is active (R170): the predicate m[msk], none for msk 0. -/
def activeAt (c : Core) (msk : Fin 8) (e : Nat) : Bool := if msk = 0 then true else (c.m[msk]).getLsbD e

/-- A vector destination written at width w where `g` gives a value and the element is active; nothing at VL 0 (R170,
R43). -/
def writeElems (c : Core) (cap : Capture) (msk : Fin 8) (d : VReg) (w : Nat) (g : Nat → Option Nat) : Core :=
  if cap.vl = 0 then c
  else c.setVreg d (elemUpd w (fun e => if activeAt c msk e then g e else none) cap.vl (c.vdest d))

/-- A mask destination written in its active bits below VL (R170). -/
def writeMask (c : Core) (cap : Capture) (msk : Fin 8) (d : MReg) (g : Nat → Bool) : Core :=
  c.setM d (maskUpd (fun e => if activeAt c msk e then some (g e) else none) cap.vl c.m[d])

def getS (l : List SVal) (i : Nat) : SVal := (l[i]?).getD (.scal 0)

/-- An element-wise instruction: d[e] := g e of the sources' elements, for each active e. -/
def epMap (f : VF) (d : VReg) (srcs : List VB) (regs : List VReg) (ws : List Nat) (g : Capture → List SVal → Nat → Nat)
    (cap : Capture) (c : Core) : EpRes :=
  epFrame c cap srcs regs (f.et.regW :: ws) (f.msk != 0) (fun c1 l =>
    .done (writeElems c1 cap f.msk d f.et.regW (fun e => some (g cap l e))))

/-! ## Issue -/

/-- Entries of the vector instruction queue proper (R36). -/
def viqCount (c : Core) : Nat :=
  (c.viq.filter (fun o => match o.work with
    | .ins _ => true
    | _ => false)).length

/-- A class-3 instruction has completed: the lane-gating count starts again (R301). -/
def Core.laneUsed (c : Core) : Core := { c with idleEdges := 0, gated := false }

/-- An EP instruction is put behind those that stand in the EP's order. -/
def Core.enqueue (c : Core) (w : EpWork) (cap : Capture) : Core :=
  { c with viq := c.viq ++ [⟨w, cap⟩], seq := c.seq + 1 }

/-- A fault of the EP at an instruction: it is taken on the core with the instruction's own place (R341, R343). A stream
fault and a queue fault name the queue in sub. -/
def epFault (s : State) (cap : Capture) (kind : BitVec 8) (element : Option (BitVec 32)) (sub : BitVec 16) : State :=
  takeQueueKill s { capFault s cap kind element with sub := sub } cap.sup

/-- Issue of a class-3 instruction of n bytes: in the S view a fault of kind supervisor (R348); performed at once when
the EP stands idle and moves with the AP (log 2); else, or when it must wait on a queue, put into the vector instruction queue, which holds the AP while
it is full (R36). -/
def issueEp (i : Instr) (eff : Capture → Core → EpRes) (n : Nat) (s : State) : Out :=
  if s.core.view == .s then raise s kSupervisor
  else if 64 ≤ viqCount s.core then .next (s.waitAs .full)
  else
    let cap := capture s 0 0 n
    if s.core.viq.isEmpty && !s.slowEp then
      match eff cap s.core with
      | .done c => .next ((s.withCore ({ c with seq := c.seq + 1 }.laneUsed)).advance n)
      | .blocked => .next ((s.updCore (fun c => c.enqueue (.ins i) cap)).advance n)
      | .fault kind el sub => .next (epFault (s.advance n) cap kind el sub)
    else .next ((s.updCore (fun c => c.enqueue (.ins i) cap)).advance n)

/-- Bytes of a class-3 form: L = 11 with a literal, three words extended, three with a literal alone (R134). -/
def vfLen (f : VF) (lit : Bool) : Nat := if f.ext then (if lit then len5 else len3) else (if lit then len3 else len1)

end Sys2Proof.Machine
end

