-- ==== Sys2Proof/Machine/Scalar.lean ====
section
/-! DEFINITION. Class 0: integer and address instructions (R147, R148, R52). -/

namespace Sys2Proof.Machine

open Sys2Proof

/-- A class-0 instruction with a source b: s[d] := f(s[a], b); no flag exists to change (R147). -/
def alu (f : Word → Word → Word) (d a : SReg) (y : SrcB) (s : State) : Out :=
  .next (s.retire d (f (s.sreg a) (srcBVal s y)) (srcBLen y))

/-- A class-0 instruction with one source. -/
def alu1 (f : Word → Word) (ext : Bool) (d a : SReg) (s : State) : Out :=
  .next (s.retire d (f (s.sreg a)) (extLen ext))

/-- Bits 127..64 of the exact product (R148). -/
def mulHigh (x y : Int) : Word := BitVec.ofInt 64 (x * y / 2 ^ 64)

def boolWord (b : Bool) : Word := if b then 1 else 0

/-- Quotient of R52 at width 64. -/
def quot64 (signed : Bool) (x y : Word) : Word :=
  BitVec.ofInt 64 (if signed then intQuot 64 true x.toInt y.toInt else intQuot 64 false (x.toNat : Int) (y.toNat : Int))

def rem64 (signed : Bool) (x y : Word) : Word :=
  BitVec.ofInt 64 (if signed then intRem x.toInt y.toInt else intRem (x.toNat : Int) (y.toNat : Int))

/-- Shift counts are taken modulo 64 (R52). -/
def shCount (y : Word) : Nat := y.toNat % 64

/-- Zero bits of x from bit k - 1 down to the first one bit, at most k. -/
def leadZeros (x : Nat) : Nat → Nat
  | 0 => 0
  | k + 1 => if x.testBit k then 0 else leadZeros x k + 1

/-- Zero bits of x from bit i up, at most k. -/
def trailZeros (x : Nat) : Nat → Nat → Nat
  | _, 0 => 0
  | i, k + 1 => if x.testBit i then 0 else trailZeros x (i + 1) k + 1

/-- One bits among the low k. -/
def popCount (x : Nat) : Nat → Nat
  | 0 => 0
  | k + 1 => popCount x k + if x.testBit k then 1 else 0

/-- Widths 8, 16 and 32, coded 0 to 2 (R142). -/
def extBits (w : Fin 3) : Nat := 8 * 2 ^ w.val

def sextAt (w : Nat) (x : Word) : Word := BitVec.ofInt 64 (intDecode w true x.toNat)
def zextAt (w : Nat) (x : Word) : Word := BitVec.ofNat 64 (x.toNat % 2 ^ w)

def execAdd (d a : SReg) (y : SrcB) (s : State) : Out := alu (fun x y => x + y) d a y s
def execSub (d a : SReg) (y : SrcB) (s : State) : Out := alu (fun x y => x - y) d a y s
def execMul (d a : SReg) (y : SrcB) (s : State) : Out := alu (fun x y => x * y) d a y s
def execMulh (d a : SReg) (y : SrcB) (s : State) : Out := alu (fun x y => mulHigh x.toInt y.toInt) d a y s
def execMulhn (d a : SReg) (y : SrcB) (s : State) : Out := alu (fun x y => mulHigh x.toNat y.toNat) d a y s
def execDiv (d a : SReg) (y : SrcB) (s : State) : Out := alu (quot64 true) d a y s
def execDivn (d a : SReg) (y : SrcB) (s : State) : Out := alu (quot64 false) d a y s
def execRem (d a : SReg) (y : SrcB) (s : State) : Out := alu (rem64 true) d a y s
def execRemn (d a : SReg) (y : SrcB) (s : State) : Out := alu (rem64 false) d a y s
def execAnd (d a : SReg) (y : SrcB) (s : State) : Out := alu (fun x y => x &&& y) d a y s
def execOr (d a : SReg) (y : SrcB) (s : State) : Out := alu (fun x y => x ||| y) d a y s
def execXor (d a : SReg) (y : SrcB) (s : State) : Out := alu (fun x y => x ^^^ y) d a y s
def execAndn (d a : SReg) (y : SrcB) (s : State) : Out := alu (fun x y => x &&& ~~~y) d a y s
def execOrn (d a : SReg) (y : SrcB) (s : State) : Out := alu (fun x y => x ||| ~~~y) d a y s
def execShl (d a : SReg) (y : SrcB) (s : State) : Out := alu (fun x y => x <<< shCount y) d a y s
def execShr (d a : SReg) (y : SrcB) (s : State) : Out := alu (fun x y => x >>> shCount y) d a y s
def execSra (d a : SReg) (y : SrcB) (s : State) : Out := alu (fun x y => x.sshiftRight (shCount y)) d a y s
def execRot (d a : SReg) (y : SrcB) (s : State) : Out := alu (fun x y => x.rotateLeft (shCount y)) d a y s
def execSlt (d a : SReg) (y : SrcB) (s : State) : Out := alu (fun x y => boolWord (x.slt y)) d a y s
def execSltn (d a : SReg) (y : SrcB) (s : State) : Out := alu (fun x y => boolWord (x.ult y)) d a y s
def execSeq (d a : SReg) (y : SrcB) (s : State) : Out := alu (fun x y => boolWord (x == y)) d a y s
def execMin (d a : SReg) (y : SrcB) (s : State) : Out := alu (fun x y => if y.slt x then y else x) d a y s
def execMax (d a : SReg) (y : SrcB) (s : State) : Out := alu (fun x y => if x.slt y then y else x) d a y s
def execMinn (d a : SReg) (y : SrcB) (s : State) : Out := alu (fun x y => if y.ult x then y else x) d a y s
def execMaxn (d a : SReg) (y : SrcB) (s : State) : Out := alu (fun x y => if x.ult y then y else x) d a y s

def execClz (ext : Bool) (d a : SReg) (s : State) : Out :=
  alu1 (fun x => BitVec.ofNat 64 (leadZeros x.toNat 64)) ext d a s
def execCtz (ext : Bool) (d a : SReg) (s : State) : Out :=
  alu1 (fun x => BitVec.ofNat 64 (trailZeros x.toNat 0 64)) ext d a s
def execPopc (ext : Bool) (d a : SReg) (s : State) : Out :=
  alu1 (fun x => BitVec.ofNat 64 (popCount x.toNat 64)) ext d a s
def execSxt (ext : Bool) (d a : SReg) (w : Fin 3) (s : State) : Out := alu1 (sextAt (extBits w)) ext d a s
def execZxt (ext : Bool) (d a : SReg) (w : Fin 3) (s : State) : Out := alu1 (zextAt (extBits w)) ext d a s
def execMov (ext : Bool) (d a : SReg) (s : State) : Out := alu1 (fun x => x) ext d a s

/-- li: s[d] := y (R148). -/
def execLi (d : SReg) (y : SrcB) (s : State) : Out := .next (s.retire d (srcBVal s y) (srcBLen y))

/-- sel: s[a] where s[c] is not zero, else y (R148). -/
def execSel (d a c : SReg) (y : SrcB) (s : State) : Out :=
  .next (s.retire d (if s.sreg c = 0 then srcBVal s y else s.sreg a) (srcBLen y))

def execLea (d a : SReg) (y : SrcB) (s : State) : Out := alu (fun x y => x + y) d a y s

/-- lea, pc-relative: the address of the lea + sext(word 2) (R148). -/
def execLeaPc (d : SReg) (off : BitVec 32) (s : State) : Out :=
  .next (s.retire d (s.core.pc + off.signExtend 64) len3)

end Sys2Proof.Machine
end

