-- ==== Sys2Proof/Machine/VecArith.lean ====
section
/-! DEFINITION. Class 3, arithmetic, logic, comparison and conversion (R174 to R183). Each effect acts on the core when
the EP reaches the instruction; each meaning is its issue. -/

namespace Sys2Proof.Machine

open Sys2Proof

/-- A floating or tapered result rounded once (R171), or an integer result wrapped or saturated (R52). -/
def roundE (f : VF) (satF : Bool) (cap : Capture) (e : Nat) (x : Num) : Nat :=
  encElem f.et (effRm f.rm cap) (satF && f.sat) (elemRnd cap e) x

/-- A two-source arithmetic op (R174): `gi` on integers, with .sat where `satI`; `gf` on exact values, with .sat where
`satF` (R53, R171; log 17). -/
def arith2 (satI satF : Bool) (gi : Int → Int → Int) (gf : Bool → Num → Num → Num) (f : VF) (d : VReg) (a : VSrc) (b : VB)
    (cap : Capture) (c : Core) : EpRes :=
  epMap f d [.src a, b] [] [] (fun cap l e =>
    let x := sElem f.et (getS l 0) e
    let y := sElem f.et (getS l 1) e
    if f.et.isI then encInt f.et (satI && f.sat) (gi (decInt f.et x) (decInt f.et y))
    else roundE f satF cap e (gf (effRm f.rm cap == .rdn) (decElem f.et x) (decElem f.et y))) cap c

/-- A one-source arithmetic op. -/
def arith1 (satI satF : Bool) (gi : Int → Int) (gf : Num → Num) (f : VF) (d : VReg) (a : VSrc) (cap : Capture) (c : Core) :
    EpRes :=
  epMap f d [.src a] [] [] (fun cap l e =>
    let x := sElem f.et (getS l 0) e
    if f.et.isI then encInt f.et (satI && f.sat) (gi (decInt f.et x))
    else roundE f satF cap e (gf (decElem f.et x))) cap c

/-- A bitwise op on raw elements of w bits (R177). -/
def bits2 (g : Nat → Nat → Nat → Nat) (f : VF) (d : VReg) (a : VSrc) (b : VB) (cap : Capture) (c : Core) : EpRes :=
  epMap f d [.src a, b] [] [] (fun _ l e => g f.et.regW (sElem f.et (getS l 0) e) (sElem f.et (getS l 1) e)) cap c

def bits1 (g : Nat → Nat → Nat) (f : VF) (d : VReg) (a : VSrc) (cap : Capture) (c : Core) : EpRes :=
  epMap f d [.src a] [] [] (fun _ l e => g f.et.regW (sElem f.et (getS l 0) e)) cap c

def epVadd := arith2 true true (fun x y => x + y) Num.add
def epVsub := arith2 true true (fun x y => x - y) (fun r x y => Num.add r x y.neg)
def epVmul := arith2 true true (fun x y => x * y) (fun _ x y => Num.mul x y)
def epVmin := arith2 false false (fun x y => if x ≤ y then x else y) (fun _ x y => Num.min x y)
def epVmax := arith2 false false (fun x y => if x ≤ y then y else x) (fun _ x y => Num.max x y)

/-- vdiv (R174): the quotient of R52, or the correctly rounded quotient. -/
def epVdiv (f : VF) (d : VReg) (a : VSrc) (b : VB) (cap : Capture) (c : Core) : EpRes :=
  arith2 true true (intQuot f.et.regW f.et.signed) (fun _ x y => Num.div x y) f d a b cap c

/-- vmulh (R174): bits 2w - 1..w of the exact product. -/
def epVmulh (f : VF) (d : VReg) (a : VSrc) (b : VB) (cap : Capture) (c : Core) : EpRes :=
  arith2 false false (fun x y => x * y / 2 ^ f.et.regW) (fun _ x _ => x) f d a b cap c

def epVsqrt := arith1 false false id Num.sqrt
def epVrcp := arith1 false false id Num.rcp
def epVrsqrt := arith1 false false id Num.rsqrt
def epVexp2 := arith1 false false id Num.exp2
def epVlog2 := arith1 false false id Num.log2

/-- vabs (R174): n types are unchanged because their values are not negative. -/
def epVabs := arith1 true false (fun x => if x < 0 then -x else x) Num.abs

def epVneg := arith1 true false (fun x => -x) Num.neg

def epVand := bits2 (fun _ x y => x &&& y)
def epVor := bits2 (fun _ x y => x ||| y)
def epVxor := bits2 (fun _ x y => x ^^^ y)
def epVnot := bits1 (fun w x => 2 ^ w - 1 - x)

/-- vshl by y mod w; .sat as R52: the exact shifted value brought into range. -/
def epVshl (f : VF) (d : VReg) (a : VSrc) (b : VB) (cap : Capture) (c : Core) : EpRes :=
  epMap f d [.src a, b] [] [] (fun _ l e =>
    encInt f.et f.sat (decInt f.et (sElem f.et (getS l 0) e) * 2 ^ (sElem f.et (getS l 1) e % f.et.regW))) cap c

def epVshr := bits2 (fun w x y => x / 2 ^ (y % w))
def epVsra := bits2 (fun w x y => intEncode w true false (intDecode w true x / 2 ^ (y % w)))
def epVclz := bits1 (fun w x => leadZeros x w)
def epVpopc := bits1 (fun w x => popCount x w)

/-! ## Fused operations (R175) -/

inductive Fused where
  | fma | fms | fnma
  deriving DecidableEq, Repr

/-- The scale byte of element e's block, as a signed number (R62). -/
def scaleAt (v : Vec) (e : Nat) : Int := intDecode 8 true (byteGet (e / 32) v)

/-- The product of R175, exact, with the zero rule of R63. -/
def fusedProduct (sa sb : Bool) (ca cb : Int) (x y : Num) : Num :=
  let x := if sa && ca == -128 then .nan else x
  let y := if sb && cb == -128 then .nan else y
  if (sa && x.isZero && y.isFinite) || (sb && y.isZero && x.isFinite) then .fin (x.sign != y.sign) 0 0
  else Num.mul (if sa then x.scale ca else x) (if sb then y.scale cb else y)

/-- Word 2 of a fused operation: companion of a and its selector, companion of b and its selector (R175). -/
def fmaCa (w : BitVec 32) : VReg := Fin.ofNat 32 (w.extractLsb' 0 5).toNat
def fmaCb (w : BitVec 32) : VReg := Fin.ofNat 32 (w.extractLsb' 8 5).toNat

def epFused (k : Fused) (f : VF) (d : VReg) (a : VSrc) (b : VB) (z : VSrc) (w : BitVec 32) (cap : Capture) (c : Core) :
    EpRes :=
  let sa := w.getLsbD 5
  let sb := w.getLsbD 13
  let regs := (if sa then [fmaCa w] else []) ++ (if sb then [fmaCb w] else [])
  epMap f d [.src a, b, .src z] regs [] (fun cap l e =>
    let x := sElem f.et (getS l 0) e
    let y := sElem f.et (getS l 1) e
    let t := sElem f.et (getS l 2) e
    if f.et.isI then
      let p := decInt f.et x * decInt f.et y
      let q := decInt f.et t
      encInt f.et f.sat (match k with | .fma => p + q | .fms => p - q | .fnma => q - p)
    else
      let p := fusedProduct sa sb (scaleAt (c.vreg (fmaCa w)) e) (scaleAt (c.vreg (fmaCb w)) e) (decElem f.et x) (decElem f.et y)
      let q := decElem f.et t
      let rdn := effRm f.rm cap == .rdn
      roundE f true cap e (match k with
        | .fma => Num.add rdn p q
        | .fms => Num.add rdn p q.neg
        | .fnma => Num.add rdn q p.neg)) cap c

def epVfma := epFused .fma
def epVfms := epFused .fms
def epVfnma := epFused .fnma

/-! ## Compare, classify, select (R178 to R180) -/

/-- The relation of vcmp (R178) on two elements. -/
def cmpElem (t : ElemTy) (cond : BitVec 4) (x y : Nat) : Bool :=
  let rel := (cond.extractLsb' 0 3).toNat
  let u := cond.getLsbD 3
  let ord (o : Ordering) : Bool :=
    if rel = 0 then o == .eq else if rel = 1 then o != .eq else if rel = 2 then o == .lt
    else if rel = 3 then o != .gt else if rel = 4 then o == .gt else if rel = 5 then o != .lt else false
  if t.isI then ord (compare (decInt t x) (decInt t y))
  else
    let a := decElem t x
    let b := decElem t y
    if a == .nan || b == .nan then u else ord (Num.cmp a b)

def epVcmp (f : VF) (d : MReg) (a : VSrc) (b : VB) (cond : BitVec 4) (cap : Capture) (c : Core) : EpRes :=
  epFrame c cap [.src a, b] [] [f.et.regW] true (fun c1 l =>
    .done (writeMask c1 cap f.msk d (fun e => cmpElem f.et cond (sElem f.et (getS l 0) e) (sElem f.et (getS l 1) e))))

/-- The class bit of an element (R179). -/
def classBit (t : ElemTy) (x : Nat) : Nat :=
  let fmt := match t with
    | .bf16 => fmtBf16
    | .f16 => fmtF16
    | _ => fmtF32
  match decElem t x with
  | .nan => 8
  | .inf n => if n then 0 else 7
  | .near _ _ _ => 8
  | .fin n m _ =>
    if m == 0 then (if n then 3 else 4)
    else if t.isF && decide (x % fmt.signBit < 2 ^ (fmt.prec - 1)) then (if n then 2 else 5)
    else if n then 1 else 6

def epVclass (f : VF) (d : MReg) (a : VSrc) (set : BitVec 9) (cap : Capture) (c : Core) : EpRes :=
  epFrame c cap [.src a] [] [f.et.regW] true (fun c1 l =>
    .done (writeMask c1 cap f.msk d (fun e => set.getLsbD (classBit f.et (sElem f.et (getS l 0) e)))))

def epVsel (f : VF) (d : VReg) (a : VSrc) (b : VB) (mc : MReg) (cap : Capture) (c : Core) : EpRes :=
  epFrame c cap [.src a, b] [] [f.et.regW] true (fun c1 l =>
    .done (writeElems c1 cap f.msk d f.et.regW (fun e =>
      some (sElem f.et (getS l (if (c.m[mc]).getLsbD e then 0 else 1)) e))))

/-! ## Conversions (R181 to R183) -/

/-- A scaled result rounded once (R63). -/
def roundScaled (f : VF) (cap : Capture) (e : Nat) (x : Num) : Nat :=
  encScaled f.et (effRm f.rm cap) f.sat (elemRnd cap e) x

def cvtElem (f : VF) (src : ElemTy) (cap : Capture) (scale : Option Int) (e x : Nat) : Nat :=
  match scale with
  | some s => roundScaled f cap e (if s == -128 then .nan else (decElem src x).scale s)
  | none =>
    if !src.isFT && !f.et.isFT then encInt f.et f.sat (decInt src x)
    else roundE f true cap e (decElem src x)

def epVcvt (f : VF) (d : VReg) (a : VSrc) (cc : VReg) (src : ElemTy) (bs : Bool) (cap : Capture) (c : Core) : EpRes :=
  epFrame c cap [.src a] (if bs then [cc] else []) [f.et.regW, src.regW] (f.msk != 0) (fun c1 l =>
    .done (writeElems c1 cap f.msk d f.et.regW (fun e =>
      some (cvtElem f src cap (if bs then some (scaleAt (c.vreg cc) e) else none) e (sElem src (getS l 0) e)))))

/-- The exponent n of vscale's element e: element e of b read as a signed integer of width w, or a scale byte (R168,
R182). -/
def scaleBy (f : VF) (blk : Bool) (y : SVal) (e : Nat) : Int :=
  match blk, y with
  | true, .vec v => scaleAt v e
  | _, y => intDecode f.et.regW true (sRaw f.et y e)

def epVscale (f : VF) (d : VReg) (a : VSrc) (b : VB) (blk : Bool) (cap : Capture) (c : Core) : EpRes :=
  epMap f d [.src a, b] [] [] (fun cap l e =>
    let n := scaleBy f blk (getS l 1) e
    roundScaled f cap e (if blk && n == -128 then .nan else (decElem f.et (sElem f.et (getS l 0) e)).scale n)) cap c

/-! ### vpack (R183) -/

def packTarget : ElemTy → Int
  | .f16 => 14
  | .i8 => 6
  | .i4 => 2
  | _ => 0

/-- floor(log2 |x|) of a finite nonzero value. -/
def floorLog2 : Num → Int
  | .fin _ m e => (bitLen m : Int) - 1 + e
  | _ => 0

def maxInt (l : List Int) : Int := l.foldl (fun a b => if a < b then b else a) (l.headD 0)

def clampInt (lo hi x : Int) : Int := if x < lo then lo else if hi < x then hi else x

/-- The scale and the codes of one block's active elements, given as (element, exact value). -/
def packBlock (f : VF) (cap : Capture) (xs : List (Nat × Num)) : Int × List (Nat × Nat) :=
  let zeros := xs.map (fun p => (p.1, 0))
  if xs.any (fun p => !p.2.isFinite) then (-128, zeros)
  else if xs.all (fun p => p.2.isZero) then (-127, zeros)
  else
    let emax := maxInt ((xs.filter (fun p => !p.2.isZero)).map (fun p => floorLog2 p.2))
    let s := clampInt (-127) 127 (emax - packTarget f.et)
    let rm := effRm f.rm cap
    if f.et == .i8 || f.et == .i4 then
      let lim : Int := if f.et == .i8 then 128 else 8
      let sig (s : Int) : List (Nat × Int) := xs.map (fun p => (p.1, ((p.2.scale (-s)).toIntRm rm (elemRnd cap p.1)).getD 0))
      let g := sig s
      if g.any (fun p => decide (lim ≤ (p.2.natAbs : Int))) then
        if s == 127 then (s, g.map (fun p => (p.1, encInt f.et true (clampInt (-(lim - 1)) (lim - 1) p.2))))
        else (s + 1, (sig (s + 1)).map (fun p => (p.1, encInt f.et true p.2)))
      else (s, g.map (fun p => (p.1, encInt f.et true p.2)))
    else (s, xs.map (fun p => (p.1, encElem f.et rm true (elemRnd cap p.1) (p.2.scale (-s)))))

def epVpack (f : VF) (d : VReg) (a : VSrc) (cc : VReg) (cap : Capture) (c : Core) : EpRes :=
  epFrame c cap [.src a] [] [f.et.regW, 32] (f.msk != 0) (fun c1 l =>
    if cap.vl = 0 then .done c1
    else
      let blk (j : Nat) : List (Nat × Num) :=
        ((List.range 32).map (fun i => 32 * j + i)).filterMap (fun e =>
          if decide (e < cap.vl) && activeAt c f.msk e then some (e, decElem .f32 (sElem .f32 (getS l 0) e)) else none)
      let nb := (cap.vl + 31) / 32
      let out := (List.range nb).map (fun j => let b := blk j; if b.isEmpty then none else some (packBlock f cap b))
      let dv := out.foldl (fun v o => match o with
        | some p => p.2.foldl (fun v q => elemSet f.et.regW q.1 q.2 v) v
        | none => v) (c1.vdest d)
      let c2 := c1.setVreg d dv
      let cv := (List.range nb).foldl (fun v j => match (out[j]?).getD none with
        | some p => elemSet 8 j (intEncode 8 true false p.1) v
        | none => v) (c2.vdest cc)
      .done (c2.setVreg cc cv))

/-! ## Issue -/

def execVadd (f : VF) (d : VReg) (a : VSrc) (b : VB) (s : State) : Out :=
  issueEp (.vadd f d a b) (epVadd f d a b) (vfLen f b.isLit) s
def execVsub (f : VF) (d : VReg) (a : VSrc) (b : VB) (s : State) : Out :=
  issueEp (.vsub f d a b) (epVsub f d a b) (vfLen f b.isLit) s
def execVmul (f : VF) (d : VReg) (a : VSrc) (b : VB) (s : State) : Out :=
  issueEp (.vmul f d a b) (epVmul f d a b) (vfLen f b.isLit) s
def execVmulh (f : VF) (d : VReg) (a : VSrc) (b : VB) (s : State) : Out :=
  issueEp (.vmulh f d a b) (epVmulh f d a b) (vfLen f b.isLit) s
def execVfma (f : VF) (d : VReg) (a : VSrc) (b : VB) (z : VSrc) (w : BitVec 32) (s : State) : Out :=
  issueEp (.vfma f d a b z w) (epVfma f d a b z w) (vfLen f b.isLit) s
def execVfms (f : VF) (d : VReg) (a : VSrc) (b : VB) (z : VSrc) (w : BitVec 32) (s : State) : Out :=
  issueEp (.vfms f d a b z w) (epVfms f d a b z w) (vfLen f b.isLit) s
def execVfnma (f : VF) (d : VReg) (a : VSrc) (b : VB) (z : VSrc) (w : BitVec 32) (s : State) : Out :=
  issueEp (.vfnma f d a b z w) (epVfnma f d a b z w) (vfLen f b.isLit) s
def execVdiv (f : VF) (d : VReg) (a : VSrc) (b : VB) (s : State) : Out :=
  issueEp (.vdiv f d a b) (epVdiv f d a b) (vfLen f b.isLit) s
def execVsqrt (f : VF) (d : VReg) (a : VSrc) (s : State) : Out :=
  issueEp (.vsqrt f d a) (epVsqrt f d a) (vfLen f false) s
def execVrcp (f : VF) (d : VReg) (a : VSrc) (s : State) : Out :=
  issueEp (.vrcp f d a) (epVrcp f d a) (vfLen f false) s
def execVrsqrt (f : VF) (d : VReg) (a : VSrc) (s : State) : Out :=
  issueEp (.vrsqrt f d a) (epVrsqrt f d a) (vfLen f false) s
def execVexp2 (f : VF) (d : VReg) (a : VSrc) (s : State) : Out :=
  issueEp (.vexp2 f d a) (epVexp2 f d a) (vfLen f false) s
def execVlog2 (f : VF) (d : VReg) (a : VSrc) (s : State) : Out :=
  issueEp (.vlog2 f d a) (epVlog2 f d a) (vfLen f false) s
def execVmin (f : VF) (d : VReg) (a : VSrc) (b : VB) (s : State) : Out :=
  issueEp (.vmin f d a b) (epVmin f d a b) (vfLen f b.isLit) s
def execVmax (f : VF) (d : VReg) (a : VSrc) (b : VB) (s : State) : Out :=
  issueEp (.vmax f d a b) (epVmax f d a b) (vfLen f b.isLit) s
def execVabs (f : VF) (d : VReg) (a : VSrc) (s : State) : Out :=
  issueEp (.vabs f d a) (epVabs f d a) (vfLen f false) s
def execVneg (f : VF) (d : VReg) (a : VSrc) (s : State) : Out :=
  issueEp (.vneg f d a) (epVneg f d a) (vfLen f false) s
def execVand (f : VF) (d : VReg) (a : VSrc) (b : VB) (s : State) : Out :=
  issueEp (.vand f d a b) (epVand f d a b) (vfLen f b.isLit) s
def execVor (f : VF) (d : VReg) (a : VSrc) (b : VB) (s : State) : Out :=
  issueEp (.vor f d a b) (epVor f d a b) (vfLen f b.isLit) s
def execVxor (f : VF) (d : VReg) (a : VSrc) (b : VB) (s : State) : Out :=
  issueEp (.vxor f d a b) (epVxor f d a b) (vfLen f b.isLit) s
def execVnot (f : VF) (d : VReg) (a : VSrc) (s : State) : Out :=
  issueEp (.vnot f d a) (epVnot f d a) (vfLen f false) s
def execVshl (f : VF) (d : VReg) (a : VSrc) (b : VB) (s : State) : Out :=
  issueEp (.vshl f d a b) (epVshl f d a b) (vfLen f b.isLit) s
def execVshr (f : VF) (d : VReg) (a : VSrc) (b : VB) (s : State) : Out :=
  issueEp (.vshr f d a b) (epVshr f d a b) (vfLen f b.isLit) s
def execVsra (f : VF) (d : VReg) (a : VSrc) (b : VB) (s : State) : Out :=
  issueEp (.vsra f d a b) (epVsra f d a b) (vfLen f b.isLit) s
def execVclz (f : VF) (d : VReg) (a : VSrc) (s : State) : Out :=
  issueEp (.vclz f d a) (epVclz f d a) (vfLen f false) s
def execVpopc (f : VF) (d : VReg) (a : VSrc) (s : State) : Out :=
  issueEp (.vpopc f d a) (epVpopc f d a) (vfLen f false) s
def execVcmp (f : VF) (d : MReg) (a : VSrc) (b : VB) (cond : BitVec 4) (s : State) : Out :=
  issueEp (.vcmp f d a b cond) (epVcmp f d a b cond) (vfLen f b.isLit) s
def execVclass (f : VF) (d : MReg) (a : VSrc) (set : BitVec 9) (s : State) : Out :=
  issueEp (.vclass f d a set) (epVclass f d a set) (vfLen f false) s
def execVsel (f : VF) (d : VReg) (a : VSrc) (b : VB) (mc : MReg) (s : State) : Out :=
  issueEp (.vsel f d a b mc) (epVsel f d a b mc) (vfLen f b.isLit) s
def execVcvt (f : VF) (d : VReg) (a : VSrc) (cc : VReg) (src : ElemTy) (bs : Bool) (s : State) : Out :=
  issueEp (.vcvt f d a cc src bs) (epVcvt f d a cc src bs) (vfLen f false) s
def execVscale (f : VF) (d : VReg) (a : VSrc) (b : VB) (blk : Bool) (s : State) : Out :=
  issueEp (.vscale f d a b blk) (epVscale f d a b blk) (vfLen f b.isLit) s
def execVpack (f : VF) (d : VReg) (a : VSrc) (cc : VReg) (s : State) : Out :=
  issueEp (.vpack f d a cc) (epVpack f d a cc) (vfLen f false) s

end Sys2Proof.Machine
end

