-- ==== Sys2Proof/Machine/VecPerm.lean ====
section
/-! DEFINITION. Class 3, reductions, permutes, mask instructions, deferral, hashing and transfer (R184 to R192). -/

namespace Sys2Proof.Machine

open Sys2Proof

/-! ## Reductions (R67, R184) -/

inductive Red where
  | sum | max | min
  deriving DecidableEq, Repr

/-- The type of the nodes (R184). -/
def nodeTy (et : ElemTy) (wide : Bool) : ElemTy :=
  if !wide then et else if !et.isI then .f32 else if et.signed then .i64 else .n64

/-- log2 of the leaf count: the smallest power of two at least max(VL, 1) (R67). -/
def treeDepth (vl : Nat) : Nat := if vl ≤ 1 then 0 else Nat.log2 (vl - 1) + 1

/-- The value of node n of the tree, heap-numbered from the root 1; leaves stand `depth` levels below (R67). -/
def redNode (op : Nat → Nat → Nat → Nat) (leaf : Nat → Nat) : Nat → Nat → Nat
  | 0, n => leaf n
  | l + 1, n => op n (redNode op leaf l (2 * n)) (redNode op leaf l (2 * n + 1))

/-- The random bits of a node (R57). -/
def nodeRnd (cap : Capture) (n : Nat) : Nat := rsBits cap.seed ((0x80000000 + n) % 2 ^ 32)

/-- One node of a reduction: two values of the node type, combined and rounded, wrapped or saturated there. -/
def redOp (k : Red) (f : VF) (t : ElemTy) (cap : Capture) (n x y : Nat) : Nat :=
  if t.isI then
    let a := decInt t x
    let b := decInt t y
    match k with
    | .sum => encInt t f.sat (a + b)
    | .max => encInt t false (if a ≤ b then b else a)
    | .min => encInt t false (if a ≤ b then a else b)
  else
    let rm := effRm f.rm cap
    let a := decElem t x
    let b := decElem t y
    encElem t rm f.sat (nodeRnd cap n) (match k with
      | .sum => Num.add (rm == .rdn) a b
      | .max => Num.max a b
      | .min => Num.min a b)

/-- The identity of a reduction in the node type (R67, R184). -/
def redIdentity (k : Red) (t : ElemTy) : Nat :=
  if t.isI then
    match k with
    | .sum => 0
    | .max => encInt t true (-(2 ^ 64 : Nat))
    | .min => encInt t true (2 ^ 64 : Nat)
  else encElem t .rne false 0 (match k with
    | .sum => .fin true 0 0
    | .max => .inf true
    | .min => .inf false)

/-- An element converted exactly to the node type; a NaN or NaR becomes the default one (R171). -/
def redLeaf (et t : ElemTy) (x : Nat) : Nat :=
  if t.isI then encInt t false (decInt et x) else encElem t .rne false 0 (decElem et x)

/-- The result as a k register takes it: sign-extended for i types (R184). -/
def toK (t : ElemTy) (x : Nat) : Word :=
  if t.isI && t.signed || t == .i4 then BitVec.ofInt 64 (intDecode t.regW true x) else BitVec.ofNat 64 x

def epRed (k : Red) (f : VF) (d : VDst) (a : VSrc) (wide : Bool) (cap : Capture) (c : Core) : EpRes :=
  epFrame c cap [.src a] [] [f.et.regW, (nodeTy f.et wide).regW] (f.msk != 0) (fun c1 l =>
    if cap.vl = 0 then .done c1
    else
      let t := nodeTy f.et wide
      let depth := treeDepth cap.vl
      let leaf (n : Nat) : Nat :=
        let e := n - 2 ^ depth
        if decide (e < cap.vl) && activeAt c f.msk e then redLeaf f.et t (sElem f.et (getS l 0) e) else redIdentity k t
      let r := redNode (redOp k f t cap) leaf depth 1
      match d with
      | .v r' => .done (c1.setVreg r' (elemSet t.regW 0 r (c1.vdest r')))
      | .k r' => .done (c1.setK r' (toK t r)))

def epVredsum := epRed .sum
def epVredmax := epRed .max
def epVredmin := epRed .min

/-! ## Permutes (R185 to R187) -/

/-- Element i of source a where i lies below VL, else zero. -/
def below (cap : Capture) (t : ElemTy) (x : SVal) (i : Nat) : Nat := if i < cap.vl then sElem t x i else 0

def epVperm (f : VF) (d : VReg) (a : VSrc) (b : VB) (cap : Capture) (c : Core) : EpRes :=
  epMap f d [.src a, b] [] [] (fun cap l e => below cap f.et (getS l 0) (sRaw f.et (getS l 1) e)) cap c

def epVbcast (f : VF) (d : VReg) (a : VSrc) (n : VB) (cap : Capture) (c : Core) : EpRes :=
  epMap f d [.src a, n] [] [] (fun cap l _ => below cap f.et (getS l 0) (sScalar (getS l 1))) cap c

def epVslidedown (f : VF) (d : VReg) (a : VSrc) (n : VB) (cap : Capture) (c : Core) : EpRes :=
  epMap f d [.src a, n] [] [] (fun cap l e => below cap f.et (getS l 0) (e + sScalar (getS l 1))) cap c

def epVslideup (f : VF) (d : VReg) (a : VSrc) (n : VB) (cap : Capture) (c : Core) : EpRes :=
  epFrame c cap [.src a, n] [] [f.et.regW] (f.msk != 0) (fun c1 l =>
    let k := sScalar (getS l 1)
    .done (writeElems c1 cap f.msk d f.et.regW (fun e =>
      if e < k then none else some (sElem f.et (getS l 0) (e - k)))))

/-- vmv to a k register: element i of the source, or a scalar's own value; it ignores VL and masks (R170, R185). A k, q4 or q5 source
gives its value also for an i that no element has, where the rule says both 0 and that value (DESIGN CHOICE; log 71). -/
def vmvK (f : VF) (x : SVal) (i : Nat) : Word :=
  match x with
  | .scal v => v
  | x => if vlmax f.et.regW ≤ i then 0 else toK f.et (sElem f.et x i)

def epVmv (f : VF) (d : VDst) (a : VSrc) (idx : BitVec 32) (cap : Capture) (c : Core) : EpRes :=
  match d with
  | .v r => epMap f r [.src a] [] [] (fun _ l e => sElem f.et (getS l 0) e) cap c
  | .k r => epFrame c { cap with vl := 0 } [.src a] [] [] false (fun c1 l =>
      .done (c1.setK r (vmvK f (getS l 0) idx.toNat)))

/-- The number of one bits of a mask below e. -/
def onesBelow (m : Mask) (e : Nat) : Nat := popCount m.toNat e

/-- The e-th element at which a one bit of the mask stands, counted from zero: its place among those below n. -/
def nthOne (m : Mask) (j : Nat) : Nat → Nat → Option Nat
  | _, 0 => none
  | e, fuel + 1 =>
    if m.getLsbD e then (if onesBelow m e = j then some e else nthOne m j (e + 1) fuel) else nthOne m j (e + 1) fuel

def epVcompress (f : VF) (d : VReg) (a : VSrc) (mc : MReg) (cap : Capture) (c : Core) : EpRes :=
  epFrame c cap [.src a] [] [f.et.regW] true (fun c1 l =>
    .done (writeElems c1 cap 0 d f.et.regW (fun j =>
      (nthOne c.m[mc] j 0 cap.vl).map (fun e => sElem f.et (getS l 0) e))))

def epVexpand (f : VF) (d : VReg) (a : VSrc) (mc : MReg) (cap : Capture) (c : Core) : EpRes :=
  epFrame c cap [.src a] [] [f.et.regW] true (fun c1 l =>
    .done (writeElems c1 cap 0 d f.et.regW (fun e =>
      if (c.m[mc]).getLsbD e then some (sElem f.et (getS l 0) (onesBelow c.m[mc] e)) else none)))

def epViota (f : VF) (d : VReg) (ma : MReg) (cap : Capture) (c : Core) : EpRes :=
  epFrame c cap [] [] [f.et.regW] true (fun c1 _ =>
    .done (writeElems c1 cap f.msk d f.et.regW (fun e => some (onesBelow c.m[ma] e))))

def epViotaIdx (f : VF) (d : VReg) (cap : Capture) (c : Core) : EpRes :=
  epMap f d [] [] [] (fun cap _ e => (cap.stripBase.toNat + e) % 2 ^ f.et.regW) cap c

/-- vpermb: the elements of a block and its scale byte (R187). -/
def epVpermb (f : VF) (d : VReg) (a : VSrc) (b cc cd : VReg) (cap : Capture) (c : Core) : EpRes :=
  epFrame c cap [.src a] [b, cc] [f.et.regW] false (fun c1 l =>
    if cap.vl = 0 then .done c1
    else
      let nb := (cap.vl + 31) / 32
      let bi (j : Nat) : Nat := byteGet j (c.vreg b)
      let c2 := writeElems c1 cap 0 d f.et.regW (fun e =>
        let i := bi (e / 32)
        some (if i < nb then below cap f.et (getS l 0) (32 * i + e % 32) else 0))
      .done (c2.setVreg cd (elemUpd 8 (fun j =>
        some (if bi j < nb then byteGet (bi j) (c.vreg cc) else 0x81)) nb (c2.vdest cd))))

/-! ## Mask instructions (R188) -/

def epMask2 (g : Bool → Bool → Bool) (f : VF) (d ma mb : MReg) (cap : Capture) (c : Core) : EpRes :=
  epFrame c cap [] [] [] true (fun c1 _ =>
    .done (writeMask c1 cap f.msk d (fun e => g ((c.m[ma]).getLsbD e) ((c.m[mb]).getLsbD e))))

def epMand := epMask2 (fun x y => x && y)
def epMor := epMask2 (fun x y => x || y)
def epMxor := epMask2 (fun x y => x != y)

def epMnot (f : VF) (d ma : MReg) (cap : Capture) (c : Core) : EpRes := epMask2 (fun x _ => !x) f d ma ma cap c

def epMset (f : VF) (d : MReg) (n : VB) (cap : Capture) (c : Core) : EpRes :=
  epFrame c cap [n] [] [] true (fun c1 l => .done (writeMask c1 cap f.msk d (fun e => decide (e < sScalar (getS l 0)))))

/-- The active elements below VL at which a mask holds one. -/
def hits (c : Core) (cap : Capture) (msk : Fin 8) (ma : MReg) : List Nat :=
  (List.range cap.vl).filter (fun e => activeAt c msk e && (c.m[ma]).getLsbD e)

def epCount (g : List Nat → Word) (f : VF) (d : KReg) (ma : MReg) (cap : Capture) (c : Core) : EpRes :=
  epFrame c cap [] [] [] true (fun c1 _ =>
    .done (if cap.vl = 0 then c1 else c1.setK d (g (hits c cap f.msk ma))))

def epVmpop := epCount (fun l => BitVec.ofNat 64 l.length)
def epVmfirst := epCount (fun l => match l with
  | [] => 0xFFFFFFFFFFFFFFFF
  | e :: _ => BitVec.ofNat 64 e)
def epVany := epCount (fun l => if l.isEmpty then 0 else 1)

/-! ## Deferral, hashing, transfer (R47, R189 to R192) -/

def deferDepth : Nat := 4096

/-- The registers a count names, in the order a, b, c and the one of word 2. -/
def firstRegs (cnt : Fin 4) (a b c x : VReg) : List VReg := [a, b, c, x].take (cnt.val + 1)

def deferEntry (c : Core) (cap : Capture) (regs : List VReg) (e : Nat) : DEntry :=
  ⟨BitVec.ofNat 32 (cap.stripBase.toNat + e),
   Vector.ofFn (fun i : Fin 4 => match regs[i.val]? with
     | some r => BitVec.ofNat 32 (elemGet 32 e (c.vreg r))
     | none => 0)⟩

def epVdefer (f : VF) (a b cc x : VReg) (cnt : Fin 4) (cap : Capture) (c : Core) : EpRes :=
  let regs := firstRegs cnt a b cc x
  epFrame c cap [] regs [32] (f.msk != 0) (fun c1 _ =>
    let es := (List.range cap.vl).filter (activeAt c f.msk)
    if deferDepth < c1.defer.length + es.length then .fault kDeferOverflow none 0
    else .done { c1 with defer := c1.defer ++ es.map (deferEntry c cap regs) })

/-- vdrain: m entries popped, value i of entry j to element j of destination i, the index last; VL := m (R190). -/
def epVdrain (d a b cc : VReg) (cnt : Fin 4) (viOn : Bool) (vi : VReg) (lim : BitVec 11) (_ : Capture) (c : Core) : EpRes :=
  let m := if c.defer.length ≤ lim.toNat then c.defer.length else lim.toNat
  let es := c.defer.take m
  let c1 := { c with defer := c.defer.drop m, vl := m }
  if m = 0 then .done c1
  else
    let put (x : Core) (r : VReg) (g : DEntry → Nat) : Core :=
      x.setVreg r (elemUpd 32 (fun j => (es[j]?).map g) m (x.vdest r))
    let c2 := ((firstRegs cnt d a b cc).zipIdx).foldl (fun x p => put x p.1 (fun e => ((e.vals[p.2]?).getD 0).toNat)) c1
    .done (if viOn then put c2 vi (fun e => e.idx.toNat) else c2)

def epVhash (f : VF) (d : VReg) (a : VSrc) (b : VB) (cap : Capture) (c : Core) : EpRes :=
  epMap f d [.src a, b] [] [] (fun _ l e =>
    (mix (BitVec.ofNat 32 (sElem f.et (getS l 1) e)) (BitVec.ofNat 32 (sElem f.et (getS l 0) e))).toNat) cap c

/-- vtoq: k pushed to q6; the arrival ends a `wait` of the AP (R162). -/
def epVtoq (k : KReg) (_ : Capture) (c : Core) : EpRes :=
  if 32 ≤ c.q6.length then .blocked
  else
    let w := match c.wait with
      | .clocks _ => Wait.clocks 0
      | w => w
    .done { c.moved with q6 := c.q6 ++ [c.k[k]], wait := w }

/-! ## Issue -/

def execVredsum (f : VF) (d : VDst) (a : VSrc) (wide : Bool) (s : State) : Out :=
  issueEp (.vredsum f d a wide) (epVredsum f d a wide) (vfLen f false) s
def execVredmax (f : VF) (d : VDst) (a : VSrc) (wide : Bool) (s : State) : Out :=
  issueEp (.vredmax f d a wide) (epVredmax f d a wide) (vfLen f false) s
def execVredmin (f : VF) (d : VDst) (a : VSrc) (wide : Bool) (s : State) : Out :=
  issueEp (.vredmin f d a wide) (epVredmin f d a wide) (vfLen f false) s
def execVperm (f : VF) (d : VReg) (a : VSrc) (b : VB) (s : State) : Out :=
  issueEp (.vperm f d a b) (epVperm f d a b) (vfLen f b.isLit) s
def execVpermb (f : VF) (d : VReg) (a : VSrc) (b cc cd : VReg) (s : State) : Out :=
  issueEp (.vpermb f d a b cc cd) (epVpermb f d a b cc cd) (vfLen f false) s
def execVslideup (f : VF) (d : VReg) (a : VSrc) (n : VB) (s : State) : Out :=
  issueEp (.vslideup f d a n) (epVslideup f d a n) (vfLen f n.isLit) s
def execVslidedown (f : VF) (d : VReg) (a : VSrc) (n : VB) (s : State) : Out :=
  issueEp (.vslidedown f d a n) (epVslidedown f d a n) (vfLen f n.isLit) s
def execVcompress (f : VF) (d : VReg) (a : VSrc) (mc : MReg) (s : State) : Out :=
  issueEp (.vcompress f d a mc) (epVcompress f d a mc) (vfLen f false) s
def execVexpand (f : VF) (d : VReg) (a : VSrc) (mc : MReg) (s : State) : Out :=
  issueEp (.vexpand f d a mc) (epVexpand f d a mc) (vfLen f false) s
def execVbcast (f : VF) (d : VReg) (a : VSrc) (n : VB) (s : State) : Out :=
  issueEp (.vbcast f d a n) (epVbcast f d a n) (vfLen f n.isLit) s
def execVmv (f : VF) (d : VDst) (a : VSrc) (idx : BitVec 32) (s : State) : Out :=
  issueEp (.vmv f d a idx) (epVmv f d a idx) (vfLen f false) s
def execViota (f : VF) (d : VReg) (ma : MReg) (s : State) : Out :=
  issueEp (.viota f d ma) (epViota f d ma) (vfLen f false) s
def execViotaIdx (f : VF) (d : VReg) (s : State) : Out :=
  issueEp (.viotaIdx f d) (epViotaIdx f d) (vfLen f false) s
def execVmpop (f : VF) (d : KReg) (ma : MReg) (s : State) : Out :=
  issueEp (.vmpop f d ma) (epVmpop f d ma) (vfLen f false) s
def execVmfirst (f : VF) (d : KReg) (ma : MReg) (s : State) : Out :=
  issueEp (.vmfirst f d ma) (epVmfirst f d ma) (vfLen f false) s
def execVany (f : VF) (d : KReg) (ma : MReg) (s : State) : Out :=
  issueEp (.vany f d ma) (epVany f d ma) (vfLen f false) s
def execMand (f : VF) (d ma mb : MReg) (s : State) : Out :=
  issueEp (.mand f d ma mb) (epMand f d ma mb) (vfLen f false) s
def execMor (f : VF) (d ma mb : MReg) (s : State) : Out :=
  issueEp (.mor f d ma mb) (epMor f d ma mb) (vfLen f false) s
def execMxor (f : VF) (d ma mb : MReg) (s : State) : Out :=
  issueEp (.mxor f d ma mb) (epMxor f d ma mb) (vfLen f false) s
def execMnot (f : VF) (d ma : MReg) (s : State) : Out :=
  issueEp (.mnot f d ma) (epMnot f d ma) (vfLen f false) s
def execMset (f : VF) (d : MReg) (n : VB) (s : State) : Out :=
  issueEp (.mset f d n) (epMset f d n) (vfLen f n.isLit) s
def execVdefer (f : VF) (a b cc x : VReg) (cnt : Fin 4) (s : State) : Out :=
  issueEp (.vdefer f a b cc x cnt) (epVdefer f a b cc x cnt) (vfLen f false) s
def execVdrain (f : VF) (d a b cc : VReg) (cnt : Fin 4) (viOn : Bool) (vi : VReg) (lim : BitVec 11) (s : State) : Out :=
  issueEp (.vdrain f d a b cc cnt viOn vi lim) (epVdrain d a b cc cnt viOn vi lim) (vfLen f false) s
def execVhash (f : VF) (d : VReg) (a : VSrc) (b : VB) (s : State) : Out :=
  issueEp (.vhash f d a b) (epVhash f d a b) (vfLen f b.isLit) s
def execVtoq (f : VF) (k : KReg) (s : State) : Out :=
  issueEp (.vtoq f k) (epVtoq k) (vfLen f false) s

end Sys2Proof.Machine
end

