-- ==== Sys2Proof/Machine/VecMem.lean ====
section
/-! DEFINITION. Class 4, vustore and the vector locks: the vector memory queue (R193 to R209), partial completion (R205,
R206), vresume (R350), update-only vectors (R238) and locks (R240, R241). -/

namespace Sys2Proof.Machine

open Sys2Proof

/-! ## Checks -/

/-- Where an access that passes its checks lands. -/
inductive PDest where
  | gen (x : Xl)
  | key (k : Nat)
  | fifo (b : Fin 32)
  deriving DecidableEq, Repr

structure Piece where
  raw : Raw
  dst : PDest
  deriving DecidableEq, Repr

/-- A fault of an element: kind, level, address, the leaf through which poison was read (R282), whether the walk met it
(R371), and what has been read of memory on the way: table entries and poisoned data (R98, R284). -/
structure ElFault where
  kind : BitVec 8
  level : Nat
  va : Word
  leaf : Option Nat
  walk : Bool
  reads : List Nat
  deriving DecidableEq, Repr

inductive PieceRes where
  | ok (p : Piece)
  | stall
  | bad (f : ElFault)
  deriving DecidableEq, Repr

/-- The checks of one access to local space (R70, R71, R75, R371). -/
def checkLocal (s : State) (r : Raw) (l : BitVec 40) (fifoOk reads : Bool) : PieceRes :=
  match localCheck s l with
  | .bad => .bad ⟨kLocalSpace, 0, r.va, none, false, []⟩
  | .stall => .stall
  | .ok (.fifo b) =>
    if !fifoOk then .bad ⟨kLocalSpace, 0, r.va, none, false, []⟩
    else if !alignedTo r.va r.n then .bad ⟨kAlignment, 0, r.va, none, false, []⟩
    else if r.n == 8 then .ok ⟨r, .fifo b⟩
    else .bad ⟨kLocalSpace, 0, r.va, none, false, []⟩
  | .ok (.bytes k) =>
    if !alignedTo r.va r.n then .bad ⟨kAlignment, 0, r.va, none, false, []⟩
    else if reads && touchesPoison s.locPoison k r.n then .bad ⟨kData, 0, r.va, none, false, []⟩
    else .ok ⟨r, .key k⟩

/-- R353 steps 8 to 12 of one access. -/
def checkRaw (s : State) (d : VmDesc) (r : Raw) : PieceRes :=
  let acc : Acc := match d.kind with
    | .load _ => .load
    | .lockacq _ => .atomic
    | .ust _ _ => .update
    | _ => .store
  let reads := match d.kind with
    | .load _ | .rred _ _ _ | .lockacq _ => true
    | _ => false
  let fifoOk := match d.kind with
    | .load _ | .store => true
    | _ => false
  match r.sp with
  | .slice o =>
    if r.bad then .bad ⟨kLocalSpace, 0, r.va, none, false, []⟩
    else if reads && touchesPoison s.locPoison (coreKey s.core.index.val o) r.n then .bad ⟨kData, 0, r.va, none, false, []⟩
    else .ok ⟨r, .key (coreKey s.core.index.val o)⟩
  | .loc =>
    match untagged r.va with
    | none => .bad ⟨kLocalSpace, 0, r.va, none, false, []⟩
    | some l => if l.extractLsb' 36 4 == 4 then .bad ⟨kLocalSpace, 0, r.va, none, false, []⟩ else checkLocal s r l false reads
  | .tag =>
    match tagged r.va with
    | .loc l => checkLocal s r l fifoOk reads
    | _ => .bad ⟨kLocalSpace, 0, r.va, none, false, []⟩
  | .gen =>
    if r.va.extractLsb' 48 16 != 0 then .bad ⟨kAddressRange, 3, r.va, none, false, []⟩
    else if !alignedTo r.va r.n then .bad ⟨kAlignment, 0, r.va, none, false, []⟩
    else
      match s.check acc r.va with
      | .stall => .stall
      | .fault f => .bad ⟨f.kind, f.level, r.va, none, f.kind == kData, f.reads⟩
      | .ok x =>
        if acc == .load && loadHeld s s.cl x.pa r.n then .stall
        else if reads && (peek s s.cl x.pa r.n).2 then
          .bad ⟨kData, 0, r.va, some x.leafAddr, false, x.reads.map Prod.fst ++ [x.pa / 8 * 8]⟩
        else .ok ⟨r, .gen x⟩

inductive ElRes where
  | ok (l : List Piece)
  | stall
  | bad (f : ElFault)
  deriving DecidableEq, Repr

/-- All accesses of an element: the first that fails decides, also for a segment record or a packed element whose accesses fail
on two pages (DESIGN CHOICE: R206 does not say how such an element counts; log 57). -/
def checkElem (s : State) (d : VmDesc) : List Raw → ElRes
  | [] => .ok []
  | r :: t =>
    match checkRaw s d r with
    | .bad f => .bad f
    | .stall => .stall
    | .ok p =>
      match checkElem s d t with
      | .ok l => .ok (p :: l)
      | x => x

/-! ## Performing -/

/-- A value loaded, assembled from its accesses; i4 is extended into its byte (R195). -/
def putBits (t : ElemTy) (v : Nat) : Nat := if t == .i4 then intEncode 8 true false (intDecode 4 true v) else v

/-- One access read: the state after (line fills, a popped FIFO) and the element's bits in place. -/
def readPiece (s : State) (na : Bool) (p : Piece) : State × Nat :=
  let bitsOf (v : Nat) : Nat := v / 2 ^ p.raw.lo % 2 ^ p.raw.bits * 2 ^ p.raw.shift
  match p.dst with
  | .key k => (chargeLocal s k p.raw.n false, bitsOf (s.loc.readN k p.raw.n))
  | .gen x =>
    let s1 := loadPrep s s.cl s.core.vdid x.pa p.raw.n (s.way x p.raw.va na)
    (s1, bitsOf (lineRead s1 s1.cl x.pa p.raw.n))
  | .fifo b =>
    match (getCl s s.cl).fifo[b] with
    | [] => (s, 0)
    | v :: t => (updCl s s.cl (popFifo b t), v.toNat)

/-- A byte written in part, `f` of what it holds: in the W line that holds the byte; at its home where the line is in W
without it, or is allocated in W by .na; else in the line as an atomic does (R102, R198, R203). -/
def partStore (s : State) (pa : Nat) (w : Way) (f : Nat → Nat) : State :=
  let v := s.core.vdid
  let line := lineOf pa
  let update (t : State) : State := memPut t pa 1 (f (homeValue t pa 1))
  let home (t : State) : State :=
    update (aliasRead (gather (mergeLine (chargeDirect t s.cl v w.work pa 1 true) line (some v)) line) pa)
  if w.uncached then update (aliasRead (chargeDirect (walkLoads s s.cl v w) s.cl v w.work pa 1 true) pa)
  else
    let s1 := settleU (walkLoads s s.cl v w) s.cl line
    let x := getCl s1 s.cl
    match findWLine x line with
    | some wl => if wl.mask.getLsbD (pa % 128) then wMerge s1 s.cl v pa 1 (f (lineGet wl.data (pa % 128) 1)) else home s1
    | none =>
      if w.na && (findLine x line).isNone then
        home (wAllocate (if x.us.any (fun u => u.line == line) then mergeLine s1 line (some v) else s1) s.cl v pa 0 0 w)
      else update (atomicPrep s s.cl v pa w)

/-- One access written with the element's value v. A byte written in part is one update in the memory unit (R198). -/
def writePiece (s : State) (na : Bool) (p : Piece) (v : Nat) : State :=
  let x := v / 2 ^ p.raw.shift % 2 ^ p.raw.bits
  let mix8 (old : Nat) : Nat := old - old / 2 ^ p.raw.lo % 2 ^ p.raw.bits * 2 ^ p.raw.lo + x * 2 ^ p.raw.lo
  let part := decide (p.raw.bits < 8 * p.raw.n)
  match p.dst with
  | .key k => locPut (chargeLocal s k p.raw.n true) k p.raw.n (if part then mix8 (s.loc.readN k 1) else x)
  | .gen xl =>
    let w := s.way xl p.raw.va na
    if part then partStore s xl.pa w mix8 else genStore s s.cl s.core.vdid xl.pa p.raw.n x w
  | .fifo b => updCl s s.cl (fun c => { c with fifo := c.fifo.set b (c.fifo[b] ++ [BitVec.ofNat 64 x]) })

/-- Where an access lands, as one number. -/
def pieceKey (s : State) (p : Piece) : Nat :=
  match p.dst with
  | .key k => 2 ^ 60 + k
  | .gen x => memKey s.part x.pa
  | .fifo b => 2 ^ 61 + b.val

/-- An access with its element and where it lands. -/
structure Item where
  e : Nat
  p : Piece
  key : Nat
  deriving DecidableEq, Repr

/-- Two accesses of one instruction that meet in one place may fall in either order unless .oe orders them; the records of
a segment store are unordered in any case (R80, R201; log 2). -/
def mayPass (oe seg : Bool) (x y : Item) : Bool :=
  x.key == y.key && decide (x.key < 2 ^ 61) && (if oe then seg && x.e != y.e else true)

/-- What one instruction performs whole: a 64-bit element of a slice with both its words (R71), or one access. -/
def orderUnits (d : VmDesc) (items : List (List Item)) : List (List Item) :=
  if d.form == .lane then items else items.flatten.map (fun i => [i])

def unitsPass (oe seg : Bool) (x y : List Item) : Bool := x.any (fun i => y.any (mayPass oe seg i))

/-- An access put into the order: behind every other one, or before one that it may pass, as free values say. -/
def orderIn {α : Type} (pass : α → α → Bool) (x : α) : Nat → List α → List α
  | _, [] => [x]
  | n, y :: t => if pass x y && Config.freeBit n then x :: y :: t else y :: orderIn pass x (n + 1) t

def freeOrder {α : Type} (pass : α → α → Bool) : Nat → List α → List α → List α
  | _, acc, [] => acc
  | n, acc, x :: t => freeOrder pass (n + 65536) (orderIn pass x n acc) t

def freeStep : Nat := 2 ^ 32

/-- The new value of vrred (R208). -/
def rredNew (d : VmDesc) (rm : Rm) (sat : Bool) (cap : Capture) (comp : Option Int) (e m x : Nat) : Nat :=
  if d.et.isI then encInt d.et sat (decInt d.et m + decInt d.et x)
  else
    let fm := decElem .f32 m
    let fx := decElem .f32 x
    let r := effRm rm cap
    if comp == some (-128) || fm == .nan || fx == .nan then encElem .f32 .rne false 0 .nan
    else if fx.isZero then encElem .f32 .rne false 0 (Num.add false fm fx)
    else
      encElem .f32 r sat (elemRnd cap e) (Num.add (r == .rdn) fm (match comp with
        | some k => fx.scale k
        | none => fx))

/-- One update of vustore (R237): under the tag at the cluster, or one read-modify-write of a host-owned frame. -/
def updPiece (s : State) (tag : UTag) (na : Bool) (va : Word) (x : Xl) (v : Nat) : State :=
  let w := s.way x va na
  if w.uncached then updateAtHome (walkLoads s s.cl s.core.vdid w) s.cl s.core.vdid x.pa tag (BitVec.ofNat 64 v) w
  else applyU s s.cl s.core.vdid x.pa tag (BitVec.ofNat 64 v) w

/-- Bits of the data registers that an access writes: field f of element e. -/
def dataElem (r : VmRegs) (t : ElemTy) (f e : Nat) : Nat := elemGet t.regW e ((r.data[f]?).getD 0)

/-- One access of a store, of vrred or of vustore. -/
def putItem (d : VmDesc) (r : VmRegs) (cap : Capture) (s : State) (i : Item) : State :=
  let v := dataElem r d.et i.p.raw.fld i.e
  match d.kind with
  | .rred rm sat _ =>
    match i.p.dst with
    | .key k =>
      let c := if d.comp.isSome then some (scaleAt r.comp i.e) else none
      locPut (chargeLocal s k i.p.raw.n true) k i.p.raw.n (rredNew d rm sat cap c i.e (s.loc.readN k i.p.raw.n) v)
    | _ => s
  | .ust tag _ =>
    match i.p.dst with
    | .gen x => updPiece s tag d.na i.p.raw.va x v
    | _ => s
  | _ => writePiece s d.na i.p v

/-- The first generic access that meets a watch range stops the group (R309). -/
def watchPieces (s : State) (store : Bool) : List Piece → State
  | [] => s
  | p :: t =>
    match p.dst with
    | .gen _ =>
      if watchMatches s.core 0 p.raw.va p.raw.n store || watchMatches s.core 1 p.raw.va p.raw.n store then
        watch s p.raw.va p.raw.n store
      else watchPieces s store t
    | _ => watchPieces s store t

/-! ### Poison that a vector store covers (R372) -/

/-- Whether spans of bits cover the 32 bytes from `lo`. -/
def coversSector (cov : List (Nat × Nat)) (lo : Nat) : Bool :=
  (List.range 256).all (fun b => cov.any (fun p => decide (p.1 ≤ 8 * lo + b ∧ 8 * lo + b < p.1 + p.2)))

/-- A covered sector of generic memory loses its mark: at once, or with the write of the W line that holds it. -/
def cleanGen (s : State) (cov : List (Nat × Nat)) (pa : Nat) : State :=
  let k := memKey s.part pa
  if !coversSector cov (k / 32 * 32) then s
  else
    let q := pa / 32 % 4
    match findWLine (getCl s s.cl) (lineOf pa) with
    | some _ =>
      updCl s s.cl (fun c => { c with ws := c.ws.map (fun y => if y.line == lineOf pa then
        { y with clean := y.clean ||| BitVec.twoPow 4 q, poison := y.poison &&& ~~~(BitVec.twoPow 4 q) } else y) })
    | none => clearPoison s pa

def cleanPiece (cov : List (Nat × Nat)) (s : State) (i : Item) : State :=
  match i.p.dst with
  | .gen x => cleanGen s cov x.pa
  | .key k =>
    if coversSector cov (2 ^ 60 + k / 32 * 32) then clearLocPoison s k else s
  | .fifo _ => s

/-- Spans of bits that the accesses write, as first bit and length. -/
def covered (l : List Item) : List (Nat × Nat) := l.map (fun i => (8 * i.key + i.p.raw.lo, i.p.raw.bits))

/-! ### Loads -/

/-- One element read: the state after, and field and value of each of its fields. -/
def readElem (na : Bool) (t : ElemTy) : State → List Piece → State × List (Nat × Nat)
  | s, [] => (s, [])
  | s, p :: r =>
    let q := readPiece s na p
    let u := readElem na t q.1 r
    match u.2 with
    | (f, v) :: rest => if f = p.raw.fld then (u.1, (f, q.2 + v) :: rest) else (u.1, (p.raw.fld, q.2) :: u.2)
    | [] => (u.1, [(p.raw.fld, q.2)])

/-- Elements read in ascending order, each as element, field and value. -/
def readElems (na : Bool) (t : ElemTy) : State → List (Nat × List Piece) → State × List (Nat × Nat × Nat)
  | s, [] => (s, [])
  | s, (e, ps) :: r =>
    let q := readElem na t s ps
    let u := readElems na t q.1 r
    (u.1, q.2.map (fun fv => (e, fv.1, putBits t fv.2)) ++ u.2)

/-- The elements of field f put into a register image, and the bits they take. -/
def imageOf (w f : Nat) (l : List (Nat × Nat × Nat)) : Vec × Vec :=
  l.foldl (fun p x => if x.2.1 = f then (elemSet w x.1 x.2.2 p.1, elemSet w x.1 (2 ^ w - 1) p.2) else p) (0, 0)

/-- Register writes: destination, data and the bits it takes. A poisoned destination reads zero elsewhere (R43). -/
def Core.applyWrites (c : Core) (l : List (VReg × Vec × Vec)) : Core :=
  l.foldl (fun c w => c.setVreg w.1 ((c.vdest w.1 &&& ~~~w.2.2) ||| w.2.1)) c

def Core.applyMask (c : Core) (m : Option (MReg × Mask × Mask)) : Core :=
  match m with
  | some w => c.setM w.1 ((c.m[w.1] &&& ~~~w.2.2) ||| w.2.1)
  | none => c

/-- Destination registers of a load: its fields in order. -/
def loadRegs (d : VmDesc) (r : VReg) : List VReg :=
  match d.form with
  | .seg f => segRegs r f
  | _ => [r]

/-! ## The outcome of one attempt -/

/-- One faulting page or element: kind, address, element, level. -/
structure PartRec where
  kind : BitVec 8
  va : Word
  e : Nat
  level : Nat
  deriving DecidableEq, Repr

inductive VmRes where
  /-- Performed: the register writes it makes at its place. -/
  | done (s : State) (w : List (VReg × Vec × Vec)) (m : Option (MReg × Mask × Mask))
  | blocked
  /-- It waits at FIFO banks, to push or to pop. -/
  | fifo (l : List (Fin 32)) (push : Bool)
  /-- A fault of the whole instruction. -/
  | whole (f : ElFault) (el : Option (BitVec 32))
  /-- A partial vector fault (R206): the state after the groups performed, the entry, its records, the groups left. -/
  | part (s : State) (w : List (VReg × Vec × Vec)) (op : VmOp) (recs : List PartRec) (left : List Nat)
  deriving DecidableEq, Repr

/-- Elements of a group (R205). -/
def groupSize (w : Nat) : Nat := if 32 ≤ w then 1 else 32 / w

/-- Bits of PMASK that are clear in the groups named. -/
def pmaskOf (left : List Nat) : Mask := left.foldl (fun m j => m &&& ~~~(BitVec.twoPow 1024 j)) (BitVec.allOnes 1024)

/-- One record per faulting page of generic memory, or per element elsewhere, in ascending address (R206, R343); an element
counts for the page of its first failing access alone (DESIGN CHOICE; log 57). -/
def partRecs (gen : Bool) (bads : List (Nat × ElFault)) : List PartRec :=
  let recs := bads.foldl (fun (l : List PartRec) b =>
    if gen && l.any (fun r => r.va.toNat / 2 ^ 16 == b.2.va.toNat / 2 ^ 16) then l
    else l ++ [⟨b.2.kind, b.2.va, b.1, b.2.level⟩]) []
  recs.mergeSort (fun x y => decide (x.va.toNat ≤ y.va.toNat))

/-- What shortens a vldff (R48, R202). -/
def shortens (f : ElFault) : Bool :=
  f.kind == kAddressRange || f.kind == kLocalSpace || f.kind == kNotPresent || f.kind == kMalformed
    || f.kind == kPhysicalRange || f.kind == kPermission || (f.kind == kData && !f.walk)

/-- FIFO entries that accesses move at a bank. -/
def fifoNeed (l : List Item) (b : Fin 32) : Nat := (l.filter (fun i => i.p.dst == .fifo b)).length

/-- The FIFO banks that accesses move entries at. -/
def fifoBanks (l : List Item) : List (Fin 32) := (List.finRange 32).filter (fun b => fifoNeed l b != 0)

/-- Whether every FIFO bank holds, or has room for, what the accesses move, no earlier arrival standing before them (R75). -/
def fifoReady (s : State) (load : Bool) (l : List Item) : Bool :=
  (fifoBanks l).all (fun b =>
    let n := fifoNeed l b
    let h := ((getCl s s.cl).fifo[b]).length
    fifoTurn s b (!load) true && (if load then decide (n ≤ h) else decide (h + n ≤ 16384)))

/-- A move at a FIFO leaves the order of its banks and restarts the queue watchdog (R75, R389). -/
def fifoMoved (s : State) (l : List Item) : State :=
  if (fifoBanks l).isEmpty then s
  else (updCl s s.cl (fun c => { c with fifoWait := c.fifoWait.filter (fun w => !(w.core == s.core.index && w.vm)) })).updCore Core.moved

/-- What the elements of one attempt turn out as. -/
structure VmPlan where
  good : List (Nat × List Piece)
  bads : List (Nat × ElFault)
  stall : Bool
  deriving DecidableEq, Repr

/-- The first of some accesses that pops a poisoned entry of a FIFO bank, behind those that have popped at the banks named. -/
def badPop (marks : List (Fin 32 × Nat)) : List Piece → List (Fin 32) → Option Piece
  | [], _ => none
  | p :: t, seen => match p.dst with
    | .fifo b => if marks.contains (b, seen.count b) then some p else badPop marks t (b :: seen)
    | _ => badPop marks t seen

/-- The FIFO banks of accesses. -/
def popsOf (l : List Piece) : List (Fin 32) := l.filterMap (fun p => match p.dst with
  | .fifo b => some b
  | _ => none)

/-- Elements in ascending order, one that would pop a poisoned entry with a data fault (R75, R370, R371). -/
def badPops (marks : List (Fin 32 × Nat)) : List (Nat × ElRes) → List (Fin 32) → List (Nat × ElRes)
  | [], _ => []
  | (e, .ok l) :: t, seen => (match badPop marks l seen with
      | some p => (e, .bad ⟨kData, 0, p.raw.va, none, false, []⟩)
      | none => (e, .ok l)) :: badPops marks t (popsOf l ++ seen)
  | x :: t, seen => x :: badPops marks t seen

def vmPlan (s : State) (d : VmDesc) (cap : Capture) (r : VmRegs) (active : List Nat) : VmPlan :=
  let all := active.map (fun e => (e, checkElem s d (d.raws cap r.idx e)))
  let marks := (getCl s s.cl).fifoBad
  let res := match d.kind with
    | .load _ => if marks.isEmpty then all else badPops marks all []
    | _ => all
  { good := res.filterMap (fun p => match p.2 with
      | .ok l => some (p.1, l)
      | _ => none)
    bads := res.filterMap (fun p => match p.2 with
      | .bad f => some (p.1, f)
      | _ => none)
    stall := res.any (fun p => p.2 == .stall) }

/-- What a faulting access has read is loaded; pseen is set in the leaf through which it read poison (R282), and a poisoned walk
is logged (R371). -/
def noteFault (s : State) (f : ElFault) : State :=
  let s1 := walkedTo s ⟨f.kind, f.level, f.reads⟩
  match f.leaf with
  | some a => setPseen s1 a
  | none => if f.walk then walkPoisonLog s1 ⟨kData, f.level, []⟩ else s1

def notePoison (s : State) (bads : List (Nat × ElFault)) : State := bads.foldl (fun s b => noteFault s b.2) s

/-- The limits of R195, and a load into a queue bound to a stream (R361). -/
def vmLimits (s : State) (d : VmDesc) (cap : Capture) : Bool :=
  let w := d.et.regW
  let per := d.msk != 0 || d.idx.isSome
  let wide := match d.kind with
    | .lockacq _ | .lockrel => false
    | _ => decide (vlmax w < cap.vl)
  !wide && !(per && decide (1024 < cap.vl)) &&
    (match isQueue d.kind with
     | some j => (s.core.streams[j]).isNone
     | none => true)

/-- The groups of the elements that were not performed. -/
def badGroups (g : Nat) (bads : List (Nat × ElFault)) : List Nat := (bads.map (fun b => b.1 / g)).eraseDups

/-- An entry pushed onto q0 to q3: n elements of an image (R200). -/
def pushVq (s : State) (j : Fin 4) (v : Vec) (n seq : Nat) : State :=
  s.updCore (fun c => { c.moved with vq := c.vq.set j (c.vq[j] ++ [⟨v, n, 0, seq⟩]) })

/-- The release that vrred and an update with .rel make first (R208, R237). -/
def vmRelease (s : State) (k : VmKind) : State :=
  match k with
  | .rred _ _ _ => flushAllW s s.cl
  | .ust _ true => flushAllW s s.cl
  | _ => s

/-- Loads, stores, vrred and vustore: one attempt with its registers read (R201 to R208, R238). -/
def vmAttempt (s : State) (d : VmDesc) (op : VmOp) (r : VmRegs) : VmRes :=
  let cap := op.cap
  let w := d.et.regW
  let g := groupSize w
  let full := match isQueue d.kind with
    | some j => decide (4 ≤ (s.core.vq[j]).length)
    | none => false
  if full then .blocked
  else if cap.vl = 0 then
    match isQueue d.kind with
    | some j => .done (pushVq s j 0 0 cap.seq) [] none
    | none => .done s [] none
  else
    let active := (List.range cap.vl).filter (fun e =>
      (d.msk == 0 || r.mask.getLsbD e) && !(op.partly && s.core.pmask.getLsbD (e / g)))
    let plan0 := vmPlan s d cap r active
    -- a first-fault load is cut at its lowest unreadable element but the first active one (R202)
    let cut := if d.ff && !cap.team && !op.partly then
        (plan0.bads.find? (fun b => shortens b.2 && some b.1 != active.head?)).map (·.1)
      else none
    let cut := match cut, plan0.bads.head?, active.head? with
      | some e, some b, some a => if shortens b.2 && b.1 == a then none else some e
      | c, _, _ => c
    let vl := cut.getD cap.vl
    let plan : VmPlan := match cut with
      | some e => ⟨plan0.good.filter (fun p => decide (p.1 < e)), plan0.bads.filter (fun p => decide (p.1 < e)), plan0.stall⟩
      | none => plan0
    let left := badGroups g plan.bads
    let perf := plan.good.filter (fun p => !left.contains (p.1 / g))
    let elems := perf.map (fun p => p.2.map (fun q => Item.mk p.1 q (pieceKey s q)))
    let items := elems.flatten
    let load := match d.kind with
      | .load _ => true
      | _ => false
    if plan.stall then .blocked
    else if !fifoReady s load items then .fifo (fifoBanks items) (!load)
    else
      let met := match cut with
        | some e => plan0.bads.filter (fun p => decide (p.1 ≤ e))
        | none => plan0.bads
      let s0 := fifoMoved (notePoison s met) items
      if load then
        let q := readElems d.na d.et s0 perf
        let s1 := watchPieces q.1 false (items.map (·.p))
        match d.kind with
        | .load (.q j) =>
          let im := imageOf w 0 q.2
          let acc := (op.acc &&& ~~~im.2) ||| im.1
          if plan.bads.isEmpty then
            let s2 := pushVq s1 j acc vl cap.seq
            .done (if cut.isSome then s2.updCore (fun c =>
              { c with vl := vl, stripNext := cap.stripBase + BitVec.ofNat 64 vl }) else s2) [] none
          else .part s1 [] { op with regs := some r, acc := acc } (partRecs (d.space cap == .gen && d.form != .lane) plan.bads) left
        | .load (.v rd) =>
          let ws := ((loadRegs d rd).zipIdx).map (fun p => (p.1, imageOf w p.2 q.2))
          if plan.bads.isEmpty then
            .done (if cut.isSome then s1.updCore (fun c =>
              { c with vl := vl, stripNext := cap.stripBase + BitVec.ofNat 64 vl }) else s1) ws none
          else .part s1 (if perf.isEmpty then [] else ws) { op with regs := some r } (partRecs (d.space cap == .gen && d.form != .lane) plan.bads) left
        | _ => .blocked
      else
        let seg := match d.form with
          | .seg _ => true
          | _ => false
        let ord := (freeOrder (unitsPass d.oe seg) s0.free [] (orderUnits d elems)).flatten
        let s1 := (ord.foldl (putItem d r cap) (vmRelease s0 d.kind))
        let s1 := if d.oe && !seg then s1 else { s1 with free := s1.free + freeStep }
        let cov := op.cov ++ covered items
        let s2 := match d.kind with
          | .store => if s1.poison.isEmpty && s1.locPoison.isEmpty then s1 else items.foldl (cleanPiece cov) s1
          | _ => s1
        let s3 := watchPieces s2 true (items.map (·.p))
        if plan.bads.isEmpty then .done s3 [] none
        else .part s3 [] { op with regs := some r, cov := cov } (partRecs (d.space cap == .gen && d.form != .lane) plan.bads) left

/-! ## Vector locks (R240, R241) -/

/-- The token of the active core. -/
def lockToken (s : State) : Nat := s.core.cgid.toNat * 2 ^ 32 + s.core.index.val + 1

/-- The 8 bytes of a lock word, with the state ready for an atomic on it. -/
def lockRead (s : State) (p : Piece) : State × Nat :=
  match p.dst with
  | .key k => (chargeLocal s k 8 true, s.loc.readN k 8)
  | .gen x =>
    let s1 := atomicPrep s s.cl s.core.vdid x.pa (s.way x p.raw.va false)
    (s1, homeValue s1 x.pa 8)
  | .fifo _ => (s, 0)

def lockWrite (s : State) (p : Piece) (v : Nat) : State :=
  match p.dst with
  | .key k => locPut s k 8 v
  | .gen x => memPut s x.pa 8 v
  | .fifo _ => s

/-- The words in ascending address, then element. -/
def lockOrder (l : List (Nat × Piece)) : List (Nat × Piece) :=
  l.mergeSort (fun x y => decide (x.2.raw.va.toNat < y.2.raw.va.toNat) ||
    (x.2.raw.va == y.2.raw.va && decide (x.1 ≤ y.1)))

/-- The compare-and-swaps of vlockacq in order: the state after and the elements that hold their word. -/
def lockTake (tok : Nat) : State → List Word → List (Nat × Piece) → State × List Nat
  | s, _, [] => (s, [])
  | s, seen, (e, p) :: t =>
    if seen.contains p.raw.va then lockTake tok s seen t
    else
      let r := lockRead s p
      let s1 := if r.2 == 0 then lockWrite r.1 p tok else r.1
      let u := lockTake tok s1 (p.raw.va :: seen) t
      (u.1, if r.2 == 0 || r.2 == tok then e :: u.2 else u.2)

/-- The stores of vlockrel: 0 once to each distinct address. -/
def lockFree : State → List Word → List (Nat × Piece) → State
  | s, _, [] => s
  | s, seen, (_, p) :: t =>
    if seen.contains p.raw.va then lockFree s seen t
    else
      let s1 := match p.dst with
        | .gen x => genStore s s.cl s.core.vdid x.pa 8 0 (s.way x p.raw.va false)
        | .key k => locPut (chargeLocal s k 8 true) k 8 0
        | .fifo _ => s
      lockFree s1 (p.raw.va :: seen) t

def maskOf (l : List Nat) : Mask := l.foldl (fun m e => m ||| BitVec.twoPow 1024 e) 0

/-- vlockacq and vlockrel: every active address is checked before any word changes. A poisoned lock word is a partial fault of its
element's group, with kind data (R205, R206, R371). -/
def lockAttempt (s : State) (d : VmDesc) (op : VmOp) (r : VmRegs) : VmRes :=
  let active := (List.range op.cap.vl).filter (fun e => d.msk == 0 || r.mask.getLsbD e)
  let plan := vmPlan s d op.cap r active
  match plan.bads.find? (fun b => b.2.leaf.isNone && (b.2.kind != kData || b.2.walk)) with
  | some b => .whole b.2 (some (BitVec.ofNat 32 b.1))
  | none =>
    if plan.stall then .blocked
    else
      let l := lockOrder (plan.good.filterMap (fun p => (p.2.head?).map (fun q => (p.1, q))))
      match d.kind with
      | .lockacq md =>
        let t := lockTake (lockToken s) (notePoison s plan.bads) [] l
        if !plan.bads.isEmpty then
          .part t.1 [] { op with regs := some r } (partRecs (d.space op.cap == .gen) plan.bads) (plan.bads.map (·.1)).eraseDups
        else .done (watchPieces t.1 true (l.map (·.2))) [] (some (md, maskOf t.2, maskOf active))
      | _ => .done (watchPieces (lockFree (flushAllW s s.cl) [] l) true (l.map (·.2))) [] none

/-- One attempt of a queued instruction with its registers at hand: dead registers and limits first (R353 steps 3, 4). -/
def vmTry (s : State) (op : VmOp) : VmRes :=
  match vmDesc op.ins with
  | none => .done s [] none
  | some d =>
    let dead := if op.regs.isNone then deadReg s.core d.reads else none
    match dead with
    | some r => .whole ⟨kDeadRegister, 0, 0, none, false, []⟩ (regNum r)
    | none =>
      if !vmLimits s d op.cap then .whole ⟨kIllegalOperand, 0, 0, none, false, []⟩ none
      else
        let r := op.regs.getD (d.grab s.core)
        match d.kind with
        | .lockacq _ | .lockrel => lockAttempt s d op r
        | _ => vmAttempt s d op r

/-! ## The head of the queue -/

/-- The queue without its head, and the head's place in the EP's order gone. -/
def Core.popVm (c : Core) (seq : Nat) : Core :=
  { c with vmq := c.vmq.drop 1, viq := c.viq.filter (fun o => !isMarker seq o) }

/-- The EP has not reached the place of an instruction. -/
def vmAhead (c : Core) (seq : Nat) : Bool :=
  match c.viq with
  | [] => false
  | o :: t => !isMarker seq o && t.any (isMarker seq)

/-- The head has been performed: it leaves the queue, and its register writes are made at its place, held until the EP
reaches it (R199). -/
def Core.vmLanded (c : Core) (seq : Nat) (w : List (VReg × Vec × Vec)) (m : Option (MReg × Mask × Mask)) : Core :=
  if vmAhead c seq then
    { c with vmq := c.vmq.drop 1, viq := c.viq.map (fun o => if isMarker seq o then { o with work := .writeback w m } else o) }
  else ((c.popVm seq).applyWrites w).applyMask m

/-- Register writes of the groups that a stopped head has performed, made at its place or held until the EP reaches it. -/
def Core.vmGroups (c : Core) (seq : Nat) (w : List (VReg × Vec × Vec)) : Core :=
  if vmAhead c seq then
    { c with viq := (c.viq.map (fun o => if isMarker seq o then [{ o with work := .writeback w none }, o] else [o])).flatten }
  else c.applyWrites w

/-- The head replaced. -/
def Core.setVmHead (c : Core) (op : VmOp) : Core := { c with vmq := op :: c.vmq.drop 1 }

/-- Records of a partial fault written in order: the state, and the first record's address. -/
def writePart (s : State) (op : VmOp) (repair : BitVec 8 → Bool) (killing : Bool) : List PartRec → State × Word
  | [] => (s, 0)
  | r :: t =>
    let f := { capFault s op.cap r.kind (some (BitVec.ofNat 32 r.e)) with
      sub := BitVec.ofNat 16 r.level, addr := some r.va, partly := true }
    let p := coreRecord s f (repair r.kind) killing
    ((writePart p.1 op repair killing t).1, p.2)

/-- TAKING A PARTIAL VECTOR FAULT: PMASK, one record per page, then the supervisor when every kind is a repair kind, else
the kill (R206, R342). The kill too where the core has yielded to a pre-emption request: its fault would come during the
save (R44, R346). A fault of an instruction that the supervisor issued is one of its own (R348). -/
def takePart (s : State) (op : VmOp) (recs : List PartRec) (left : List Nat) : State :=
  let s0 := recs.foldl (fun t r => freshPage t (some r.va)) s
  let s1 := s0.updCore (fun c => { c with pmask := pmaskOf left })
  if op.cap.sup then takeKill s1 (capFault s1 op.cap kSupervisor none)
  else if s1.core.run != .yielded && recs.all (fun r => repairKind r.kind) then
    let p := writePart s1 op (fun _ => true) false recs
    enterSupervisor p.1 kVectorPartial p.1.core.pc p.2 true p.1.core.wait none (some op.cap.seq)
  else
    killGroup (writePart s1 op (fun _ => false) true recs).1 s1.core.cgid

/-- A fault of a whole queued instruction. -/
def takeVmFault (s : State) (op : VmOp) (f : ElFault) (el : Option (BitVec 32)) : State :=
  let s1 := noteFault s f
  let isAddr := f.kind != kDeadRegister && f.kind != kIllegalOperand
  let r := { capFault s1 op.cap f.kind el with sub := BitVec.ofNat 16 f.level, addr := if isAddr then some f.va else none }
  if op.cap.sup || !repairKind f.kind then takeQueueKill s1 r op.cap.sup
  else takeFaultRet s1 r s1.core.pc s1.core.wait (some op.cap.seq)

/-- The head stands at FIFO banks: it joins their orders where it has not yet; none once it has. -/
def arriveBanks (s : State) (l : List (Fin 32)) (push : Bool) : Option State :=
  let w := (getCl s s.cl).fifoWait
  if l.all (fun b => w.contains ⟨b, push, s.core.index, true⟩) then none
  else some (l.foldl (fun t b => fifoArrive t b push true) s)

/-- The queue's head takes what can be taken (R36, R199): a load that reads no EP register at once, any other instruction
when every earlier writer of the registers it reads has completed; what it writes to EP registers is written at its place.
None while it must wait. In the S view nothing moves at or behind the instruction whose fault was taken; a fault of an earlier
instruction of the group that the supervisor could repair stands there in its turn, and is taken after the return (R206, R346;
log 14). -/
def vmHead (s : State) : Option State :=
  match s.core.vmq with
  | [] => none
  | op :: _ =>
    match vmDesc op.ins with
    | none => none
    | some d =>
      let stop := s.core.entry.bind Entry.stop
      let later := s.core.view == .s && !op.cap.sup
      let stand := s.updCore (fun c => { c with entry := c.entry.map (fun e => { e with stop := some op.cap.seq }) })
      if (op.regs.isNone && !vmRegsReady s.core d op.cap.seq) || (s.core.view == .s && stop.any (fun n => decide (n ≤ op.cap.seq))) then none
      else
        match vmTry s op with
        | .blocked => none
        | .fifo l push => arriveBanks s l push
        | .done s1 w m =>
          some (s1.updCore (fun c =>
            { c.vmLanded op.cap.seq w m with pmask := if op.partly then BitVec.allOnes 1024 else c.pmask }))
        | .whole f el => some (if later && repairKind f.kind then stand else takeVmFault s op f el)
        | .part s1 w op1 recs left =>
          if later && recs.all (fun r => repairKind r.kind) then some stand
          else some (takePart (s1.updCore (fun c => (c.vmGroups op.cap.seq w).setVmHead { op1 with partly := true })) op recs left)

/-! ## Issue -/

/-- Whether the place of an instruction in the EP's order is marked: wherever it reads or writes an EP register. -/
def wantsPlace (i : Instr) : Bool :=
  match vmDesc i with
  | some d => d.needsEp || d.writesEp
  | none => false

/-- An instruction put into the vector memory queue, with its place among the EP's. -/
def Core.enqueueVm (c : Core) (i : Instr) (cap : Capture) : Core :=
  { c with vmq := c.vmq ++ [⟨i, cap, false, none, 0, []⟩]
           viq := if wantsPlace i then c.viq ++ [⟨.vm cap.seq, cap⟩] else c.viq
           seq := c.seq + 1 }

/-- Issue of an instruction of n bytes whose scalar fields have values a and b: it waits while the queue is full, and is
performed at once where nothing stands before it (R36). -/
def issueVm (i : Instr) (a b : Word) (n : Nat) (s : State) : Out :=
  if 16 ≤ s.core.vmq.length then .next (s.waitAs .full)
  else
    let idle := s.core.vmq.isEmpty && s.core.viq.isEmpty && !s.slowEp
    let s1 := (s.updCore (fun c => c.enqueueVm i (capture s a b n))).advance n
    if idle then .next ((vmHead s1).getD s1) else .next s1

/-- A class-4 instruction: kind supervisor in the S view (R348). -/
def issue4 (i : Instr) (a b : Word) (n : Nat) (s : State) : Out :=
  if s.core.view == .s then raise s kSupervisor else issueVm i a b n s

def execVld (m : VM) (d : LDst) (a : SReg) (o : AddrX) (s : State) : Out :=
  issue4 (.vld m d a o) (s.sreg a) (addrXVal s o) (addrXLen o) s
def execVldff (m : VM) (d : LDst) (a : SReg) (o : AddrX) (s : State) : Out :=
  issue4 (.vldff m d a o) (s.sreg a) (addrXVal s o) (addrXLen o) s
def execVst (m : VM) (r : VReg) (a : SReg) (o : AddrX) (s : State) : Out :=
  issue4 (.vst m r a o) (s.sreg a) (addrXVal s o) (addrXLen o) s
def execVlds (m : VM) (d : LDst) (a : SReg) (o : AddrX) (s : State) : Out :=
  issue4 (.vlds m d a o) (s.sreg a) (addrXVal s o) (addrXLen o) s
def execVsts (m : VM) (r : VReg) (a : SReg) (o : AddrX) (s : State) : Out :=
  issue4 (.vsts m r a o) (s.sreg a) (addrXVal s o) (addrXLen o) s
def execVldseg (m : VM) (d : VReg) (a : SReg) (o : RegLit) (f : BitVec 4) (s : State) : Out :=
  issue4 (.vldseg m d a o f) (s.sreg a) (regLitVal s o) (regLitLen o) s
def execVstseg (m : VM) (r : VReg) (a : SReg) (o : RegLit) (f : BitVec 4) (s : State) : Out :=
  issue4 (.vstseg m r a o f) (s.sreg a) (regLitVal s o) (regLitLen o) s
def execVldx (m : VM) (d : LDst) (a : SReg) (c : VReg) (s : State) : Out :=
  issue4 (.vldx m d a c) (s.sreg a) 0 len3 s
def execVstx (m : VM) (r : VReg) (a : SReg) (c : VReg) (s : State) : Out :=
  issue4 (.vstx m r a c) (s.sreg a) 0 len3 s
def execVldl (m : VM) (d : LDst) (a : SReg) (o : AddrX) (c : Option VReg) (s : State) : Out :=
  issue4 (.vldl m d a o c) (s.sreg a) (addrXVal s o) (addrXLen o) s
def execVstl (m : VM) (r : VReg) (a : SReg) (o : AddrX) (c : Option VReg) (s : State) : Out :=
  issue4 (.vstl m r a o c) (s.sreg a) (addrXVal s o) (addrXLen o) s
def execVrred (m : VM) (rm : Rm) (sat : Bool) (sc : Scope) (r : VReg) (a : SReg) (o : AddrX) (c : Option VReg) (s : State) :
    Out :=
  issue4 (.vrred m rm sat sc r a o c) (s.sreg a) (addrXVal s o) (addrXLen o) s

/-- vustore (R238): class 7, so it issues in any view. -/
def execVustore (m : VM) (tag : UTag) (rel : Bool) (sc : Scope) (r : VReg) (a : SReg) (o : AddrX) (c : Option VReg)
    (s : State) : Out :=
  issueVm (.vustore m tag rel sc r a o c) (s.sreg a) (addrXVal s o) (addrXLen o) s

def execVlockacq (sc : Scope) (msk : Fin 8) (dt : Bool) (d : MReg) (a : SReg) (c : VReg) (off : BitVec 32) (s : State) :
    Out :=
  issueVm (.vlockacq sc msk dt d a c off) (s.sreg a) (off.signExtend 64) len3 s
def execVlockrel (sc : Scope) (msk : Fin 8) (dt : Bool) (a : SReg) (c : VReg) (off : BitVec 32) (s : State) : Out :=
  issueVm (.vlockrel sc msk dt a c off) (s.sreg a) (off.signExtend 64) len3 s

/-- vresume (R350): in the S view the head performs its groups whose PMASK bit is 0; s[d] is the number of groups left. -/
def execVresume (d : SReg) (s : State) : Out :=
  if s.core.view == .u then raise s kPrivilege
  else
    match s.core.vmq with
    | [] => .next (s.retire d 0 len3)
    | op :: _ =>
      if !op.partly then .next (s.retire d 0 len3)
      else
        match vmTry s op with
        | .blocked => .next (s.waitAs .other)
        | .fifo l push => .next (((arriveBanks s l push).getD s).waitAs .other)
        | .whole f el => .next (takeVmFault s op f el)
        | .done s1 w m =>
          .next ((s1.updCore (fun c =>
            { c.vmLanded op.cap.seq w m with pmask := BitVec.allOnes 1024 })).retire d 0 len3)
        | .part s1 w op1 recs left =>
          let s2 := s1.updCore (fun c => { (c.vmGroups op.cap.seq w).setVmHead { op1 with partly := true } with pmask := pmaskOf left })
          let p := writePart s2 op repairKind false recs
          .next (p.1.retire d (BitVec.ofNat 64 left.length) len3)

end Sys2Proof.Machine
end

