-- ==== Sys2Proof/Machine/Control.lean ====
section
/-! DEFINITION. Class 2, control: branches and jumps (R154 to R157), queues (R158), strips and belay points (R39 to R44,
R159), cairns (R110, R160), traps, waits and ends (R162, R163), time (R165). -/

namespace Sys2Proof.Machine

open Sys2Proof

/-! ## Branches -/

def condHolds (c : Cond) (x y : Word) : Bool :=
  match c with
  | .eq => x == y
  | .ne => x != y
  | .lt => x.slt y
  | .ge => !x.slt y
  | .ltn => x.ult y
  | .gen => !x.ult y

/-- b.cc (R154). -/
def execBcc (c : Cond) (a : SReg) (y : RegLit) (off : BitVec 32) (s : State) : Out :=
  .next (if condHolds c (s.sreg a) (regLitVal s y) then s.goto (branchTarget s off) else s.advance (regLitLen y))

/-- A jump to a register's value: alignment fault where bits 1..0 are not zero (R155). -/
def jumpTo (s : State) (target : Word) (k : State → State) : Out :=
  if target.extractLsb' 0 2 != 0 then raiseAt s kAlignment 0 target else .next ((k s).goto target)

def execJmpReg (a : SReg) (s : State) : Out := jumpTo s (s.sreg a) id

def execJmpOff (off : BitVec 32) (s : State) : Out := .next (s.goto (branchTarget s off))

/-- call to a register: s[a] is read before s[d] is written (R155). -/
def execCallReg (d a : SReg) (s : State) : Out :=
  jumpTo s (s.sreg a) (fun t => t.setSreg d (s.core.pc + BitVec.ofNat 64 len1))

def execCallOff (d : SReg) (off : BitVec 32) (s : State) : Out :=
  .next ((s.setSreg d (s.core.pc + BitVec.ofNat 64 len3)).goto (branchTarget s off))

def execRet (a : SReg) (s : State) : Out := jumpTo s (s.sreg a) id

/-! ## q6 and the pushes -/

/-- An AP pop of q6: while the queue is empty the AP waits, and RESYNC grows once for the wait (R38). -/
def popQ6 (s : State) (k : State → Word → State) : Out :=
  match s.core.q6 with
  | [] =>
    .next (if s.core.wait = .q6 then s
      else s.updCore (fun c => { c with resync := c.resync + 1, wait := .q6 }))
  | x :: t => .next (k (s.updCore (fun c => { c.moved with q6 := t })) x)

/-- bq.nz and bq.z (R156). -/
def execBq (zero : Bool) (off : BitVec 32) (s : State) : Out :=
  popQ6 s (fun t x => if (x == 0) == zero then t.goto (branchTarget t off) else t.advance len3)

def execQpop (d : SReg) (s : State) : Out := popQ6 s (fun t x => t.retire d x len1)

/-- qpush (R158): a full queue holds the AP. -/
def execQpush (q : PushQ) (y : PushSrc) (s : State) : Out :=
  let v := pushSrcVal s y
  let n := pushSrcLen y
  match q with
  | .q4 => if 32 ≤ s.core.q4.length then .next (s.waitAs (.push 4))
    else .next ((s.updCore (fun c => { c.moved with q4 := c.q4 ++ [v] })).advance n)
  | .q5 => if 32 ≤ s.core.q5.length then .next (s.waitAs (.push 5))
    else .next ((s.updCore (fun c => { c.moved with q5 := c.q5 ++ [v] })).advance n)
  | .q7 => if 64 ≤ s.core.q7.length then .next (s.waitAs (.push 7))
    else .next ((s.updCore (fun c => { c.moved with q7 := c.q7 ++ [v.getLsbD 0] })).advance n)

/-! ## Engine status (R157) -/

def CopySt.faulted : CopySt → Bool
  | .stopped _ _ _ _ _ => true
  | .moving => false

def statusOf (l : List CopySt) : FlagSt :=
  if l.any CopySt.faulted then .faulted else if l.isEmpty then .done else .busy

/-- The tile that an operation of the matrix unit fills. -/
def matFills (i : Instr) : Option TSlot :=
  match i with
  | .mpack td _ _ _ _ _ _ => some td
  | .mdrain t _ | .mdrainExt t _ _ _ _ _ => some t
  | _ => none

/-- The accumulator tile that a pending operation names, as status and pending bits count it (R157, R311). -/
def matNames (i : Instr) : Option ZReg :=
  match i with
  | .mmul z _ _ _ _ _ _ => some z
  | .mdrain _ z | .mdrainExt _ z _ _ _ _ => some z
  | _ => none

/-- What bflag tests (R157). A copy is one of a counter where it names it by the same address (DESIGN CHOICE: R157 does not say
whether a copy counts that names the counter word by another address; log 71). -/
def flagStatus (s : State) : FlagSel → FlagSt
  | .cc a => statusOf ((s.core.copies.filter (fun c => c.ctr == some (s.sreg a))).map (·.st))
  | .tile t =>
    statusOf ((s.core.copies.filter (fun c => c.tile == some t)).map (·.st) ++
      (s.core.mats.filter (fun m => matFills m.ins == some t)).map (·.st))
  | .acc z => if s.core.mats.any (fun m => matNames m.ins == some z) then .busy else .done
  | .strm q =>
    match s.core.streams[q] with
    | none => .done
    | some x => if x.fault.isSome then .faulted else if x.next < x.count then .busy else .done

def execBflag (st : FlagSt) (k : FlagSel) (off : BitVec 32) (s : State) : Out :=
  .next (if flagStatus s k = st then s.goto (branchTarget s off) else s.advance len3)

/-! ## Cairns (R110, R117) -/

def satAdd16 (x : BitVec 16) (n : Nat) : BitVec 16 := if 0xFFFF < x.toNat + n then 0xFFFF else BitVec.ofNat 16 (x.toNat + n)

/-- A cairn posted: discarded while the sequencer is off or stopped; a full FIFO is discarded for the new one. -/
def postCairn (c : Core) (n : BitVec 16) (base : Word) : Core :=
  match c.adv.st with
  | .off | .stopped => c
  | _ =>
    if 64 ≤ c.adv.fifo.length then
      { c with adv := { c.adv with fifo := [(n, base)], overflow := true }
               advCnt := { c.advCnt with lag := satAdd16 c.advCnt.lag 64 } }
    else { c with adv := { c.adv with fifo := c.adv.fifo ++ [(n, base)] } }

/-- cairn n (R160). -/
def execCairn (n : BitVec 16) (s : State) : Out :=
  .next ((s.updCore (fun c => postCairn c n c.stripBase)).advance len1)

/-! ## Belay points (R42, R44) -/

/-- Registers outside the live mask become poisoned. -/
def Core.poisonDead (c : Core) (live : BitVec 32) : Core := { c with poisonV := c.poisonV ||| ~~~live }

/-- A queue of q0 to q3 without a stream that holds an entry written earlier than the belay point. -/
def staleQueue (c : Core) (seq : Nat) : Option (Fin 4) :=
  (List.finRange 4).find? (fun j => (c.streams[j]).isNone && (c.vq[j]).any (fun e => decide (0 < e.seq ∧ e.seq < seq)))

/-- Whether a pre-emption request is pending for the active core's group. -/
def preemptPending (s : State) : Bool := ((findGroup s.part s.core.cgid).map (·.preempt)).getD false

/-- Whether the core may serve it: a fault of its group is served first, and the request when the group runs again (R346). -/
def mayYield (c : Core) : Bool := c.view != .s && !c.held

/-- A wait for a counter, a semaphore or a FIFO bank is withdrawn and issued again after the restore; a bit that has been
granted is taken first, and a ccwait that a value has released stays released (R153, R232, R388, R390). -/
def withdrawWait (s : State) : State :=
  match s.core.wait with
  | .counter _ _ _ false => s.waitAs .none
  | .sem j =>
    let me := (j, s.core.index)
    if (getCl s s.cl).semGrant.contains me then
      ((updCl s s.cl (fun x => { x with semGrant := x.semGrant.filter (fun w => w != me) })).acquire).advance len1
    else (updCl s s.cl (fun x => { x with semWait := x.semWait.filter (fun w => w != me) })).waitAs .none
  | .fifo _ =>
    (updCl s s.cl (fun x => { x with fifoWait := x.fifoWait.filter (fun w => w.core != s.core.index || w.vm) })).waitAs .none
  | _ => s

/-- The active core yields (R44): once no core of the group runs any more, the save begins. -/
def yieldCore (s : State) : State :=
  let s1 := (withdrawWait s).updCore (fun c => { c with run := .yielded })
  match findGroup s1.part s1.core.cgid with
  | none => s1
  | some g =>
    if s1.cores.any (fun c => inGroup g.cgid c && c.run == .running) then s1
    else { s1 with part := setGroup s1.part { g with st := .saving } }

/-- The EP reaches a belay point: the four steps of R42. The strip's budget time starts again (R44). -/
def belayAt (s : State) (cap : Capture) (live : BitVec 32) : State :=
  let s1 := s.updCore (fun c => { c.poisonDead live with stripNs := 0 })
  match staleQueue s1.core cap.seq with
  | some j => epFault s1 cap kQueueNotEmpty none (BitVec.ofNat 16 (32 + j.val))
  | none =>
    let s2 := s1.updCore (fun c => postCairn c 0xFFFF cap.stripBase)
    if preemptPending s2 && mayYield s2.core then yieldCore s2 else s2

/-- The belay point as an event of the EP: of the queued setvl at the head of its order, where that is one, or of a point
behind everything issued so far. -/
def execBelayPoint (live : BitVec 32) (base : Word) (s : State) : Out :=
  .next (belayAt s { capture s 0 0 0 with stripBase := base } live)

/-- The belay point of a setvl just issued: taken at once when the EP stands idle, else queued. -/
def issueBelay (i : Instr) (live : BitVec 32) (pc : Word) (s : State) : State :=
  let cap := { capture s 0 0 0 with pc := pc, next := s.core.pc }
  if s.core.viq.isEmpty && !s.slowEp then belayAt (s.updCore (fun c => { c with seq := c.seq + 1 })) cap live
  else s.updCore (fun c => c.enqueue (.ins i) cap)

/-- The cap of a setvl: omitted it is vlmax(w) (R159). -/
def setvlCap (s : State) (w : VW) : RegLit → Nat
  | .reg b => if b = 0 then vlmax (vwBits w) else (s.sreg b).toNat
  | .lit v => v.toNat

def capOk (w : VW) (cap : Nat) : Bool := decide (1 ≤ cap ∧ cap ≤ vlmax (vwBits w))

/-- VL that a strip from base takes of n elements (R39, R40). -/
def stripLen (n base cap : Nat) : Nat := if n - base ≤ cap then n - base else cap

/-- setvl (R39). -/
def execSetvl (w : VW) (d a : SReg) (cap : RegLit) (live : BitVec 32) (s : State) : Out :=
  let k := setvlCap s w cap
  if !capOk w k then raise s kIllegalOperand
  else if 64 ≤ viqCount s.core then .next (s.waitAs .full)
  else
    let base := s.core.stripNext
    let n := s.sreg a
    let vl := stripLen n.toNat base.toNat k
    let next : Word := if base.toNat < n.toNat then base + BitVec.ofNat 64 vl else 0
    let s1 := s.updCore (fun c => { c with vl := vl, stripBase := base, stripNext := next, team := false })
    .next (issueBelay (.setvl w d a cap live) live s.core.pc (s1.retire d (BitVec.ofNat 64 vl) (regLitLen cap)))

/-- setvl.team (R40): the base comes from a fetch-add on the team's cd register, whose limit is checked before any wait (R353). -/
def execSetvlTeam (w : VW) (d a : SReg) (cd : Fin 32) (cap : RegLit) (live : BitVec 32) (s : State) : Out :=
  let k := setvlCap s w cap
  if !capOk w k then raise s kIllegalOperand
  else if vmqFences s true then .next (s.waitAs .behind)
  else
    let base := (getCl s s.cl).cd[cd]
    if cdOk s cd && decide (2 ^ 64 - k ≤ base.toNat + k) then raise s kIllegalOperand
    else if 64 ≤ viqCount s.core then .next (s.waitAs .full)
    else if !cdOk s cd then raise s kLocalSpace
    else
      let vl := stripLen (s.sreg a).toNat base.toNat k
      let s0 := setCd s cd (base + BitVec.ofNat 64 k)
      let s1 := s0.updCore (fun c => { c with vl := vl, stripBase := base, stripNext := 0, team := true })
      .next (issueBelay (.setvlTeam w d a cd cap live) live s.core.pc (s1.retire d (BitVec.ofNat 64 vl) (regLitLen cap)))

/-! ## Traps, waits, ends -/

/-- trap n (R162): the supervisor is entered, and its return goes on behind the trap; in the S view the group is killed
with a record of kind supervisor-kill (R348). What stands in the vector memory queue is performed first (R347). -/
def execTrap (n : BitVec 6) (s : State) : Out :=
  let f := { apFault s kTrap with sub := n.zeroExtend 16 }
  if s.core.view == .s then .next (takeKill s { f with kind := kSupervisorKill })
  else .next (takeApFault s f (s.core.pc + BitVec.ofNat 64 len1) .none)

/-- eret (R162, R348): as a fence.acqrel it waits for what the vector memory queue can perform (R236). -/
def execEret (s : State) : Out :=
  if s.core.view != .s then raise s kPrivilege
  else
    match s.core.entry with
    | none => raise s kPrivilege
    | some e => if releaseWaits s then .next (s.waitAs .behind) else .next (returnFromSupervisor s e)

/-- yield (R162): a slot given up for at most 64 clk; no state changes. -/
def execYield (s : State) : Out := .next (s.advance len1)

/-- wait (R162): s[a] clk, capped at 2^32, or until it is ended early. -/
def execWait (a : SReg) (s : State) : Out :=
  match s.core.wait with
  | .clocks 0 => .next (s.advance len1)
  | .clocks n => .next (if preemptPending s then s.advance len1 else s.waitAs (.clocks n))
  | _ =>
    let n := if (s.sreg a).toNat ≤ 2 ^ 32 then (s.sreg a).toNat else 2 ^ 32
    .next (if n = 0 || preemptPending s then s.advance len1 else s.waitAs (.clocks n))

/-- The clk of a wait have passed and the AP issues again; nothing when the active core stands in no wait. -/
def execWaitTimeout (s : State) : Out :=
  match s.core.wait with
  | .clocks _ => .next (s.advance len1)
  | _ => .next s

/-- A stream that has nothing more to push of itself. -/
def streamQuiet : Option Stream → Bool
  | none => true
  | some x => x.fault.isSome || decide (x.count ≤ x.next)

/-- Whether every earlier instruction of the core has completed (R163). -/
def haltReady (c : Core) : Bool :=
  c.viq.isEmpty && c.vmq.isEmpty && c.copies.isEmpty && c.mats.isEmpty && c.streams.toList.all streamQuiet

/-- Steps 1, 3 and 4 of R163 on a core whose tiles are empty. -/
def Core.endVirtual (c : Core) : Core :=
  { c with
    vq := Vector.replicate 4 [], q4 := [], q5 := [], q6 := [], q7 := [], defer := []
    streams := Vector.replicate 4 none, want := 0, acc := 0, lanes := 0
    adv := c.adv.toOff
    run := .done, wait := .none }

/-- halt (R163). -/
def execHalt (s : State) : Out :=
  if !haltReady s.core then .next (s.waitAs .halt)
  else
    let p := emptyTiles s s.core
    .next (haltInGroup (p.1.withCore p.2.endVirtual) s.core.cgid)

def execNop (s : State) : Out := .next (s.advance len1)

/-! ## Time (R165) -/

def execTstamp (d : SReg) (s : State) : Out := .next (s.retire d s.part.tstamp len1)

def execRdcycle (d : SReg) (s : State) : Out := .next (s.retire d s.cycle len1)

end Sys2Proof.Machine
end

