-- ==== Sys2Proof/Machine/Ep.lean ====
section
/-! DEFINITION. What the execute processor takes next, in its program order (R36, R42, R199, R226). -/

namespace Sys2Proof.Machine

open Sys2Proof

/-- The effect of a class-3 instruction in the EP. -/
def epEffect : Instr → Option (Capture → Core → EpRes)
  | .vadd f d a b => some (epVadd f d a b)
  | .vsub f d a b => some (epVsub f d a b)
  | .vmul f d a b => some (epVmul f d a b)
  | .vmulh f d a b => some (epVmulh f d a b)
  | .vfma f d a b z w => some (epVfma f d a b z w)
  | .vfms f d a b z w => some (epVfms f d a b z w)
  | .vfnma f d a b z w => some (epVfnma f d a b z w)
  | .vdiv f d a b => some (epVdiv f d a b)
  | .vsqrt f d a => some (epVsqrt f d a)
  | .vrcp f d a => some (epVrcp f d a)
  | .vrsqrt f d a => some (epVrsqrt f d a)
  | .vexp2 f d a => some (epVexp2 f d a)
  | .vlog2 f d a => some (epVlog2 f d a)
  | .vmin f d a b => some (epVmin f d a b)
  | .vmax f d a b => some (epVmax f d a b)
  | .vabs f d a => some (epVabs f d a)
  | .vneg f d a => some (epVneg f d a)
  | .vand f d a b => some (epVand f d a b)
  | .vor f d a b => some (epVor f d a b)
  | .vxor f d a b => some (epVxor f d a b)
  | .vnot f d a => some (epVnot f d a)
  | .vshl f d a b => some (epVshl f d a b)
  | .vshr f d a b => some (epVshr f d a b)
  | .vsra f d a b => some (epVsra f d a b)
  | .vclz f d a => some (epVclz f d a)
  | .vpopc f d a => some (epVpopc f d a)
  | .vcmp f d a b cond => some (epVcmp f d a b cond)
  | .vclass f d a set => some (epVclass f d a set)
  | .vsel f d a b mc => some (epVsel f d a b mc)
  | .vcvt f d a cc src bs => some (epVcvt f d a cc src bs)
  | .vscale f d a b blk => some (epVscale f d a b blk)
  | .vpack f d a cc => some (epVpack f d a cc)
  | .vredsum f d a wide => some (epVredsum f d a wide)
  | .vredmax f d a wide => some (epVredmax f d a wide)
  | .vredmin f d a wide => some (epVredmin f d a wide)
  | .vperm f d a b => some (epVperm f d a b)
  | .vpermb f d a b cc cd => some (epVpermb f d a b cc cd)
  | .vslideup f d a n => some (epVslideup f d a n)
  | .vslidedown f d a n => some (epVslidedown f d a n)
  | .vcompress f d a mc => some (epVcompress f d a mc)
  | .vexpand f d a mc => some (epVexpand f d a mc)
  | .vbcast f d a n => some (epVbcast f d a n)
  | .vmv f d a idx => some (epVmv f d a idx)
  | .viota f d ma => some (epViota f d ma)
  | .viotaIdx f d => some (epViotaIdx f d)
  | .vmpop f d ma => some (epVmpop f d ma)
  | .vmfirst f d ma => some (epVmfirst f d ma)
  | .vany f d ma => some (epVany f d ma)
  | .mand f d ma mb => some (epMand f d ma mb)
  | .mor f d ma mb => some (epMor f d ma mb)
  | .mxor f d ma mb => some (epMxor f d ma mb)
  | .mnot f d ma => some (epMnot f d ma)
  | .mset f d n => some (epMset f d n)
  | .vdefer f a b cc x cnt => some (epVdefer f a b cc x cnt)
  | .vdrain _ d a b cc cnt viOn vi lim => some (epVdrain d a b cc cnt viOn vi lim)
  | .vhash f d a b => some (epVhash f d a b)
  | .vtoq _ k => some (epVtoq k)
  | _ => none

/-- The live mask of a belay point that the EP reaches (R42). -/
def belayMask : Instr → Option (BitVec 32)
  | .setvl _ _ _ _ live => some live
  | .setvlTeam _ _ _ _ _ live => some live
  | _ => none

def Core.popViq (c : Core) : Core := { c with viq := c.viq.drop 1 }

/-- An instruction of the vector instruction queue at its turn; none while it waits on a queue. -/
def epInstr (s : State) (o : EpOp) (i : Instr) : Option State :=
  match belayMask i with
  | some live => some (belayAt (s.updCore Core.popViq) o.cap live)
  | none =>
    match epEffect i with
    | none => some (s.updCore Core.popViq)
    | some eff =>
      match eff o.cap s.core with
      | .done c => some (s.withCore c.popViq.laneUsed)
      | .blocked => none
      | .fault kind el sub => some (epFault s o.cap kind el sub)

/-- The place of an instruction of the vector memory queue: one that writes no EP register has its registers read here; any
other, or one that names a poisoned register, is performed here as the queue's head. -/
def epPlace (s : State) (seq : Nat) : Option State :=
  match s.core.vmq.find? (fun op => op.cap.seq == seq) with
  | none => some (s.updCore Core.popViq)
  | some op =>
    match vmDesc op.ins with
    | none => some (s.updCore Core.popViq)
    | some d =>
      if op.regs.isSome || d.writesEp || (deadReg s.core d.reads).isSome then none
      else
        let r := d.grab s.core
        some (s.updCore (fun c =>
          { c.popViq with vmq := c.vmq.map (fun x => if x.cap.seq == seq then { x with regs := some r } else x) }))

/-- A copy reads its index register at its place (R226). -/
def epIndex (s : State) (o : EpOp) (seq : Nat) (v : VReg) : Option State :=
  if s.core.isPoisoned v then some (epFault s o.cap kDeadRegister (regNum v) 0)
  else
    some <| s.updCore (fun c => { c.popViq with copies := c.copies.map (fun x => if x.seq == seq then { x with idx := some (c.vreg v) } else x) })

/-- Whether the EP may take what stands first in its order: in the S view nothing behind the queued instruction whose fault was
taken moves, and earlier instructions complete (R206, R341). -/
def epMoves (c : Core) (o : EpOp) : Bool := c.view != .s || (c.entry.bind Entry.stop).all (fun n => decide (o.cap.seq < n))

/-- What stands first in the EP's order is taken; none while it must wait. -/
def epHead (s : State) : Option State :=
  match s.core.viq with
  | [] => none
  | o :: _ =>
    if !epMoves s.core o then none else
    match o.work with
    | .ins i => epInstr s o i
    | .vm seq => epPlace s seq
    | .writeback l m => some (s.updCore (fun c => (c.popViq.applyWrites l).applyMask m))
    | .idx seq v => epIndex s o seq v

/-- Whether the EP and the vector memory queue of the active core run; in the S view they go on with what is earlier than the
fault (R206, R341; log 14). -/
def queuesRun (c : Core) : Bool := c.run == .running || c.run == .yielded

/-- A core becomes the active one. -/
def activate (s : State) (i : Fin 1024) : State :=
  if i = s.core.index then s
  else { s with core := s.getCore i, rest := s.core :: s.rest.filter (fun c => c.index != i) }

/-! ## Units that stand (R38, R44) -/

/-- The first of the EP's order waits to pop an empty queue or to push to a full one. -/
def epOnQueue (s : State) : Bool :=
  match s.core.viq with
  | [] => false
  | o :: _ =>
    match o.work with
    | .ins i => (epEffect i).any (fun eff => eff o.cap s.core == .blocked)
    | _ => false

/-- The head of the vector memory queue waits to push to a full queue, or at a FIFO bank. -/
def vmOnQueue (s : State) : Bool :=
  match s.core.vmq with
  | [] => false
  | op :: _ =>
    match vmDesc op.ins with
    | none => false
    | some d =>
      if op.regs.isNone && !vmRegsReady s.core d op.cap.seq then false
      else
        match vmTry s op with
        | .fifo _ _ => true
        | .blocked => (isQueue d.kind).any (fun j => decide (4 ≤ (s.core.vq[j]).length))
        | _ => false

/-- The head of the vector memory queue waits for an earlier instruction of the EP. -/
def vmOnEp (s : State) : Bool :=
  match s.core.vmq with
  | [] => false
  | op :: _ => (vmDesc op.ins).any (fun d => op.regs.isNone && !vmRegsReady s.core d op.cap.seq)

/-- The EP waits for the vector memory queue at an instruction's place. -/
def epOnVm (s : State) : Bool :=
  match s.core.viq with
  | [] => false
  | o :: _ => (match o.work with
    | .vm _ => true
    | _ => false) && (epHead s).isNone

/-- The EP and the vector memory queue of the active core are each empty or stand blocked on a queue, or behind one another
where that one does; `none` while one can go on or waits for something else. The answer says whether any is blocked. -/
def standing (s : State) : Option Bool :=
  let ep := epOnQueue s
  let vm := vmOnQueue s
  if (s.core.viq.isEmpty || ep || (epOnVm s && vm)) && (s.core.vmq.isEmpty || vm || (vmOnEp s && ep)) then some (ep || vm)
  else none

end Sys2Proof.Machine
end

