-- ==== Sys2Proof/Machine/Launch.lean ====
section
/-! DEFINITION. Launches: the record and its checks (R28 to R31), acceptance (R161, R251 to R253), selection, placement and
pre-emption requests (R255 to R257), packets and the start state (R33 to R35), waves (R34), saves and restores (R44,
R45, R410). -/

namespace Sys2Proof.Machine

open Sys2Proof

/-! ## The launch record -/

/-- n bytes at an offset of a record held as one little-endian number. -/
def recField (raw off n : Nat) : Nat := raw / 256 ^ off % 256 ^ n

def recWord (raw off : Nat) : Word := BitVec.ofNat 64 (recField raw off 8)

/-- Level descriptors below nlev: domain, scope, extent (R30). -/
def recLevels (raw : Nat) : List (Nat × Nat × Nat) :=
  (List.range (recField raw 0x26 1)).map (fun i =>
    let d := recField raw (0x28 + 8 * i) 8
    (d / 2 ^ 29 % 8, d / 2 ^ 27 % 4, d % 2 ^ 24))

/-- A record's fields (R28). -/
def parseRecord (raw : Nat) : LaunchRec :=
  { sentry := recWord raw 0x00, aentry := recWord raw 0x08, ctab := recWord raw 0x10, args := recWord raw 0x18
    gx := recField raw 0x20 2, gy := recField raw 0x22 2, gz := recField raw 0x24 2
    prio := Fin.ofNat 8 (recField raw 0x27 1)
    levels := recLevels raw
    deps := (List.range 4).map (fun i => (recWord raw (0x68 + 16 * i), recWord raw (0x70 + 16 * i)))
    fin := recWord raw 0xA8, budget := recField raw 0xB0 4, dflags := BitVec.ofNat 3 (recField raw 0xB4 4)
    keeps := (List.range 4).map (fun i => (recField raw (0xB8 + 16 * i) 8, recField raw (0xC0 + 16 * i) 8)) }

/-- Capacity and scope of a level (R31): `inner` is size(L). -/
def levelOk (l : Nat × Nat × Nat) (inner : Nat) : Bool :=
  (if l.1 = 2 ∨ l.1 = 3 then decide (inner ≤ 8) && decide (1 ≤ l.2.1)
   else if l.1 = 1 then decide (inner ≤ 256) && decide (2 ≤ l.2.1)
   else if l.1 = 0 then decide (2 ≤ l.2.1)
   else l.1 == 4) && decide (1 ≤ l.2.2)

/-- Nesting, capacity and scope of levels from one on, below a parent of domain `parent` (R31). -/
def levelsOk : Nat → List (Nat × Nat × Nat) → Bool
  | _, [] => false
  | parent, [l] => decide (parent ≤ l.1) && l.1 == 4 && levelOk l 1
  | parent, l :: t => decide (parent ≤ l.1) && l.1 != 4 && levelOk l (levelProd t) && levelsOk l.1 t

/-- The limits of R28 and R31 but fin's own and the placement check. -/
def recordOk (raw : Nat) : Bool :=
  let r := parseRecord raw
  let nlev := recField raw 0x26 1
  r.sentry.extractLsb' 0 2 == 0 && (r.aentry != 0 || r.ctab == 0)
    && r.gx != 0 && r.gy != 0 && r.gz != 0 && decide (1 ≤ nlev ∧ nlev ≤ 8) && decide (recField raw 0x27 1 < 8)
    && (List.range 8).all (fun i =>
      let d := recField raw (0x28 + 8 * i) 8
      if i < nlev then decide (d < 2 ^ 32) && d / 2 ^ 24 % 8 == 0 else d == 0)
    && decide (r.budget ≤ 10000) && decide (recField raw 0xB4 4 < 8)
    && r.keeps.all (fun k => k.1 % 32 == 0 && k.2 % 32 == 0 && decide (k.1 + k.2 ≤ 0x80000))
    && recField raw 0xF8 8 == 0
    && r.gx * r.gy * r.gz == levelProd r.levels && decide (levelProd r.levels ≤ 2 ^ 24) && levelsOk 0 r.levels

/-! ## Cores a launch may use (R254, R256) -/

/-- The core-time level of a virtual device, in 1/1,024 token (R266; log 45). -/
def coreTime (p : Part) (d : Vd) : Int := levelOf p 6 d.part.toNat d.vdid

def usable (d : Vd) (shared : Bool) : List Nat := maskCores (if shared then d.excl ||| d.shared else d.excl)

/-- Whether a core stands in a group, or is promised to one by a packet or a restore. -/
def coreBusy (s : State) (i : Nat) : Bool :=
  s.cores.any (fun c => c.index.val == i && c.run != .off)
    || s.part.groups.any (fun g => g.mask.getLsbD i && (g.st == .restoring || s.part.packets.any (fun k => k.cgid == g.cgid)))

/-- The free cores a new launch of a virtual device may use (R254). -/
def freeFor (s : State) (d : Vd) : List Nat :=
  (usable d (decide (1024 ≤ coreTime s.part d))).filter (fun i => !coreBusy s i)

/-- The placement check at acceptance: every core the virtual device may use, busy or free (R34). -/
def canPlace (d : Vd) (r : LaunchRec) : Bool := !(assignWave r (usable d true) 0).1.isEmpty

/-! ## Acceptance -/

inductive Accept where
  | stall
  | full
  | badShape (s : State)
  | badDep (s : State)
  | ok (s : State) (cgid : BitVec 32)
  deriving DecidableEq, Repr

/-- Who issued a launch: CGID, core and pc as a record names them (R343), and the joined name (R307). -/
structure Issuer where
  cgid : BitVec 32
  core : Nat
  pc : Word
  pid : BitVec 32
  tid : BitVec 32
  deriving DecidableEq, Repr

/-- A rejected launch (R28, R32, R253): its record, and the fault add unless fin itself is at fault; none while the frame
of fin is closed for a handover. A finish-add record of it names the issuer's CGID (DESIGN CHOICE: R343 speaks of a finished or killed
group only; log 70). -/
def rejectLaunch (s : State) (d : Vd) (u : Issuer) (kind : BitVec 8) (sub : Nat) (va fin : Word) (add : Bool) : Option State :=
  let f : FaultInfo := { kind := kind, pc := u.pc, strip := 0, sub := BitVec.ofNat 16 sub, addr := some va }
  let s1 := (writeRecord s d.vdid (recordBytes u.cgid u.core f (recordFlags f false false) s.part.tstamp)).1
  if add then finishAdd s1 d.vdid u.cgid fin faultAmount else some s1

/-- What the counters of a record's dependence pairs are found as (R253): the state after the reads with the pairs that are not
satisfied yet; a frame closed for a handover; the first used pair whose counter cannot be read as one word. -/
inductive DepRes where
  | ok (s : State) (l : List Dep)
  | stall
  | bad (s : State) (i : Nat)
  deriving DecidableEq, Repr

/-- The counters of used pairs read in order; one that is poisoned sets pseen in its leaf (R282). -/
def depReads (d : Vd) (cgid : BitVec 32) (w : Work) : List (Word × Word) → Nat → State → DepRes
  | [], _, s => .ok s []
  | x :: t, i, s =>
    if x.1 == 0 then depReads d cgid w t (i + 1) s
    else if !alignedTo x.1 8 then .bad s i
    else
      match vdCheck s d .load x.1 with
      | .fault f => .bad (walkedFor s (vdCluster d) d.vdid w f) i
      | .stall => .stall
      | .ok y =>
        let cl := vdCluster d
        let s1 := loadPrep s cl d.vdid y.pa 8 (partWay s y w)
        if linePoisoned s1 cl y.pa 8 then .bad (setPseenAt s1 cl d.vdid y.leafAddr) i
        else
          match depReads d cgid w t (i + 1) s1 with
          | .ok s2 l => .ok s2 (if x.2.toNat ≤ lineRead s1 cl y.pa 8 then l else ⟨cgid, memKey s1.part y.pa, x.2⟩ :: l)
          | r => r

def cgidOf (v : BitVec 6) (n : Nat) : BitVec 32 := v ++ BitVec.ofNat 26 n

/-- Whether a count names a live group or a queued launch of the virtual device. -/
def countLive (p : Part) (d : Vd) (n : Nat) : Bool :=
  p.groups.any (fun g => g.cgid == cgidOf d.vdid n) || d.queues.toList.any (fun q => q.any (fun l => l.cgid == cgidOf d.vdid n))

/-- The next count that names no live group (R32). -/
def nextCount (p : Part) (d : Vd) : Nat → Nat → Nat
  | 0, n => n
  | fuel + 1, n => if countLive p d n then nextCount p d fuel ((n + 1) % 2 ^ 26) else n

/-- Whether fin breaks R28: misaligned, or its page or frame does not take the add; none while its frame is closed for a
handover (R106). -/
def finBad (s : State) (d : Vd) (fin : Word) : Option Bool :=
  if fin == 0 then some false
  else if !alignedTo fin 8 then some true
  else
    match vdCheck s d .atomic fin with
    | .fault _ => some true
    | .stall => none
    | .ok _ => some false

/-- A record read for a virtual device is accepted or not, in the order of R161's table. A virtual device's first accepted launch is
named by count 0 (DESIGN CHOICE: R32 says that the count starts at 0, not whether it is read before it grows; log 70). -/
def accept (s : State) (d : Vd) (raw : Nat) (va : Word) (u : Issuer) : Accept :=
  let r := parseRecord raw
  let back (o : Option State) (k : State → Accept) : Accept := match o with
    | none => .stall
    | some s1 => k s1
  if 64 ≤ (d.queues[r.prio]).length then .full
  else
    match finBad s d r.fin with
    | none => .stall
    | some true => back (rejectLaunch s d u kLaunchShape 0 va r.fin false) .badShape
    | some false =>
      if !recordOk raw || !canPlace d r then back (rejectLaunch s d u kLaunchShape 0 va r.fin true) .badShape
      else
        let n := nextCount s.part d (s.part.groups.length + 513) d.count
        let cgid := cgidOf d.vdid n
        match depReads d cgid (.semantic r.prio.val) r.deps 0 s with
        | .stall => .stall
        | .bad s1 i => back (rejectLaunch s1 d u kLaunchDependence i va r.fin true) .badDep
        | .ok s1 open_ =>
          let l : Launch := ⟨cgid, va, r, u.pid, u.tid⟩
          let d1 := { d with count := (n + 1) % 2 ^ 26, queues := d.queues.set r.prio (d.queues[r.prio] ++ [l]) }
          .ok { s1 with part := setVd s1.part d1, deps := s1.deps ++ open_ } cgid

/-! ## launch (R161) -/

inductive RecRead where
  | ok (raw : Nat)
  | stall
  | fault (f : XFault) (va : Word)
  | poison (leaf : Nat) (va : Word)
  deriving DecidableEq, Repr

/-- n pieces of 64 bytes of generic memory read through a virtual device's translations, from the first that fails on a
failure. -/
def readPieces (s : State) (chk : Word → Check) (cl : Fin 128) : Nat → Word → RecRead
  | 0, _ => .ok 0
  | n + 1, va =>
    match chk va with
    | .stall => .stall
    | .fault f => .fault f va
    | .ok x =>
      let l := (List.range 8).map (fun i => peek s cl (x.pa + 8 * i) 8)
      if (List.range 8).any (fun i => loadHeld s cl (x.pa + 8 * i) 8) then .stall
      else if l.any (fun r => r.2) then .poison x.leafAddr va
      else
        match readPieces s chk cl n (va + 64) with
        | .ok raw => .ok (l.foldr (fun r m => r.1 + 2 ^ 64 * m) raw)
        | r => r

/-- The loads that reading those pieces makes. -/
def recordLoads (chk : Word → Check) (cl : Fin 128) (v : BitVec 6) (way : Xl → Word → Way) : Nat → Word → State → State
  | 0, _, s => s
  | n + 1, va, s =>
    match chk va with
    | .ok x => recordLoads chk cl v way n (va + 64) (loadPrep s cl v x.pa 64 (way x va))
    | _ => s

/-- Generic memory that the active core has read for the command processor. -/
def State.recordRead (s : State) (n : Nat) (va : Word) (t : State) : State :=
  recordLoads (s.check .load) s.cl s.core.vdid (fun x a => s.way x a false) n va t

/-- launch: every earlier access is released at `.sys`, then the record is read and accepted or not. -/
def execLaunch (d a : SReg) (s : State) : Out :=
  let va := s.sreg a
  if va.extractLsb' 48 16 != 0 then raiseAt s kAddressRange 3 va
  else if !alignedTo va 64 then raiseAt s kAlignment 0 va
  else if vmqHolds s va 256 false || releaseWaits s then .next (s.waitAs .behind)
  else
    match readPieces s (s.check .load) s.cl 4 va with
    | .stall => .next (s.waitAs .other)
    | .fault f x => raiseX s f x
    | .poison leaf x => raiseAt (setPseen (s.recordRead ((x - va).toNat / 64 + 1) va s) leaf) kData 0 x
    | .ok raw =>
      match s.vd with
      | none => raiseX s ⟨kPhysicalRange, 3, []⟩ va
      | some dv =>
        let g := findGroup s.part s.core.cgid
        let u : Issuer := ⟨s.core.cgid, s.core.index.val, s.core.pc, (g.map (·.pid)).getD 0, (g.map (·.tid)).getD 0⟩
        let s0 := s.recordRead 4 va (flushAllW s s.cl)
        match accept s0 dv raw va u with
        | .stall => .next (s.waitAs .other)
        | .full => .next (s0.retire d 0 len1)
        | .badShape s1 => .next (s1.retire d 1 len1)
        | .badDep s1 => .next (s1.retire d 2 len1)
        | .ok s1 cgid => .next (s1.retire d (0x100000000 + cgid.zeroExtend 64) len1)

/-! ## Selection (R255 to R257) -/

/-- The head of a priority's queue (R252): a pre-empted group, else an accepted launch. -/
inductive Head where
  | res (cgid : BitVec 32)
  | fresh (l : Launch)
  deriving DecidableEq, Repr

def headOf (d : Vd) (p : Fin 8) : Option Head :=
  match d.resume[p] with
  | g :: _ => some (.res g)
  | [] =>
    match d.queues[p] with
    | l :: _ => some (.fresh l)
    | [] => none

def eligible (s : State) : Head → Bool
  | .res _ => true
  | .fresh l => !s.deps.any (fun x => x.cgid == l.cgid)

/-- The mask of a head on cores taken as free (R256); none when it cannot be placed. -/
def placeOn (s : State) (d : Vd) (free : List Nat) : Head → Option (BitVec 1024)
  | .fresh l =>
    let t := (assignWave l.lr free 0).1
    if t.isEmpty then none else some (coreMask (t.map (·.2)))
  | .res g =>
    match findGroup s.part g with
    | none => none
    | some x =>
      let need (cl : Nat) : Nat := x.saved.foldl (fun n c => if c.index.val / 8 == cl then n + bits4 c.acc else n) 0
      if (maskCores x.mask).all (fun i => free.contains i) && (List.range 128).all (fun cl => need cl == 0 || accRoom s d cl (need cl))
      then some x.mask else none

/-- Candidates of a slot at one priority, in the order of R255: descending core-time level, ties in ascending VDID. -/
def insertBy (lt : Vd × Head → Vd × Head → Bool) (x : Vd × Head) : List (Vd × Head) → List (Vd × Head)
  | [] => [x]
  | y :: t => if lt x y then x :: y :: t else y :: insertBy lt x t

def candOrder (p : Part) (x y : Vd × Head) : Bool :=
  let a := coreTime p x.1
  let b := coreTime p y.1
  if b < a then true else if a < b then false else decide (x.1.vdid.toNat < y.1.vdid.toNat)

def candidates (s : State) (prio : Fin 8) (waiting : List (BitVec 6)) : List (Vd × Head) :=
  (s.part.vds.filterMap (fun d => (headOf d prio).bind (fun h =>
    if eligible s h && !waiting.contains d.vdid then some (d, h) else none))).foldl
    (fun l x => insertBy (candOrder s.part) x l) []

/-- A group taken from its queue or list, with its mask, and its packet sent. -/
def sendHead (s : State) (d : Vd) (prio : Fin 8) (m : BitVec 1024) : Head → State
  | .fresh l =>
    let g : Group :=
      { cgid := l.cgid, vdid := d.vdid, pid := l.pid, tid := l.tid, addr := l.addr, lr := l.lr, mask := m, wave := 0
        first := 0, live := 0, st := .running, preempt := false, stopped := false, saved := [], kept := [], keptPoison := []
        killed := false, order := s.part.starts }
    { s with part := { setVd s.part { d with queues := d.queues.set prio ((d.queues[prio]).drop 1) } with
        groups := s.part.groups ++ [g], packets := s.part.packets ++ [⟨l.cgid, 0, false, 0xF⟩], starts := s.part.starts + 1 } }
  | .res c =>
    let p := setVd s.part { d with resume := d.resume.set prio ((d.resume[prio]).drop 1) }
    let p := match findGroup p c with
      | some g => setGroup p { g with order := p.starts }
      | none => p
    { s with part := { p with packets := p.packets ++ [⟨c, 0, true, 0xF⟩], starts := p.starts + 1 } }

/-- Whether pre-emption may still free a group's cores, or is under way (R257). -/
def preemptable (s : State) (g : Group) : Bool :=
  !g.killed && (g.st == .saving || comesBack s.part g
    || (g.st == .running && (decide (0 < g.live) || s.part.packets.any (fun k => k.cgid == g.cgid))))

/-- Whether a group's virtual device is subject to pre-emption on shared cores: below one token, and a best-effort one whatever
its level (R257, R266; log 64). -/
def subject (p : Part) (v : BitVec 6) : Bool :=
  match findVd p v with
  | none => true
  | some d => decide (coreTime p d < 1024) || !guaranteedAt p 6 d.part.toNat v

/-- The groups that a head may pre-empt, in R257's order: its own virtual device's below its priority, lowest first, then,
while its level holds a token, those subject to it on shared cores; newest first within a kind. -/
def victims (s : State) (d : Vd) (prio : Fin 8) : List Group :=
  let live := s.part.groups.filter (preemptable s)
  let byAge (l : List Group) : List Group :=
    l.foldl (fun r g => r.filter (fun x => decide (g.order < x.order)) ++ [g] ++ r.filter (fun x => !decide (g.order < x.order))) []
  let own := (List.range prio.val).flatMap (fun q => byAge (live.filter (fun g => g.vdid == d.vdid && g.lr.prio.val == q)))
  let others := if 1024 ≤ coreTime s.part d then
      byAge (live.filter (fun g => g.vdid != d.vdid && subject s.part g.vdid && (heldCores s g).any (fun i => d.shared.getLsbD i)))
    else []
  own ++ others

/-- The accumulator tiles of a group given back, as its pre-emption will. -/
def creditTiles (s : State) (g : Group) : State :=
  s.mapCores (fun c => if inGroup g.cgid c then { c with acc := 0 } else c)

/-- Groups picked until the cores they would free, with the free ones, place the head; one that is being pre-empted already
counts, and is not requested again. -/
def pickVictims (s : State) (d : Vd) (h : Head) : List Group → List Nat → List (BitVec 32) → List (BitVec 32)
  | [], _, acc => acc
  | g :: t, free, acc =>
    if (placeOn s d free h).isSome then acc
    else
      let may := usable d (decide (1024 ≤ coreTime s.part d))
      let gain := (heldCores s g).filter (fun i => may.contains i && !free.contains i)
      if gain.isEmpty then pickVictims s d h t free acc
      else pickVictims (creditTiles s g) d h t (free ++ gain).mergeSort (acc ++ [g.cgid])

def requestPreempt (s : State) (d : Vd) (prio : Fin 8) (h : Head) : State :=
  let l := pickVictims s d h (victims s d prio) (freeFor s d) []
  { s with part := { s.part with groups := s.part.groups.map (fun g =>
      if l.contains g.cgid && g.st != .saving then { g with preempt := true } else g) } }

/-- The candidates of one priority in order: the slot ends with the first that is placed; each other one asks for
pre-emption and keeps its virtual device's lower priorities waiting. -/
def selectAt (prio : Fin 8) : List (Vd × Head) → State → List (BitVec 6) → State × List (BitVec 6) × Bool
  | [], s, w => (s, w, false)
  | x :: t, s, w =>
    match placeOn s x.1 (freeFor s x.1) x.2 with
    | some m => (sendHead s x.1 prio m x.2, w, true)
    | none => selectAt prio t (requestPreempt s x.1 prio x.2) (x.1.vdid :: w)

/-- Priorities n - 1 down to 0. -/
def selectFrom : Nat → State → List (BitVec 6) → State
  | 0, s, _ => s
  | n + 1, s, w =>
    let prio : Fin 8 := Fin.ofNat 8 n
    let r := selectAt prio (candidates s prio w) s w
    if r.2.2 then r.1 else selectFrom n r.1 r.2.1

/-- SELECTION SLOT (R255). -/
def execSelectionSlot (s : State) : Out := .next (selectFrom 8 s [])

/-! ## Starting cores (R35, R254) -/

/-- Coordinates of a virtual core at the levels (R31). -/
def levelCoords (v : Nat) : List (Nat × Nat × Nat) → List Nat
  | [] => []
  | l :: t => v / levelProd t % l.2.2 :: levelCoords v t

/-- The scalar registers at the start of virtual core v of a wave (R35). -/
def startRegs (r : LaunchRec) (v wave : Nat) : Vector Word 64 :=
  Vector.ofFn (fun i : Fin 64 =>
    let n := i.val
    let x := BitVec.ofNat 64
    if n = 1 then r.args
    else if n = 2 then x v
    else if n = 3 then x wave
    else if n = 4 then x (r.gx * r.gy * r.gz)
    else if 5 ≤ n ∧ n ≤ 12 then x (((levelCoords v r.levels)[n - 5]?).getD 0)
    else if n = 13 then x (v % r.gx)
    else if n = 14 then x (v / r.gx % r.gy)
    else if n = 15 then x (v / (r.gx * r.gy))
    else 0)

/-- The sequencer at the start of a virtual core (R109, R116): nothing without an entry or after a stop that holds;
loading while the buffer is not there; else running at the entry. -/
def advStart (a : Advice) : Advice :=
  if a.barred then { a.toOff with st := .stopped }
  else if a.aentry == 0 then a.toOff
  else { a.toOff with st := if a.buffer.isEmpty then .loading else .running, pc := a.aentry.extractLsb' 0 13, cause := a.cause }

/-- What a start leaves of a core: the settings of the supervisor and of the part, its S bank, its debug block, its caches. CAPBASE
and FREEZE, which only the supervisor writes, stay, though R35's table does not list them (DESIGN CHOICE; log 70). -/
def Core.bare (c : Core) : Core :=
  { Core.reset c.index with
    sBank := c.sBank, xmask := c.xmask, alcCeil := c.alcCeil, alcCur := c.alcCur, lmap := c.lmap, idleEdges := c.idleEdges
    gated := c.gated, freeze := c.freeze, part := c.part, capbase := c.capbase, timing := c.timing, dbg := c.dbg
    cgid := c.cgid, vdid := c.vdid, advCnt := c.advCnt, adv := c.adv, icache := c.icache, tlb := c.tlb }

/-- A debug block that no group uses: the registers of the core itself stay (R308). -/
def Debug.bare (d : Debug) : Debug :=
  { Debug.reset with bpa := d.bpa, wpa := d.wpa, wpl := d.wpl, recbase := d.recbase, terrLane := d.terrLane, terrCount := d.terrCount }

/-- The debug block at the start: stopped at entry under launch debug flag 2, or with a group that is stopped; record mode under
flag 0 (R308, R309, R312). -/
def Debug.start (d : Debug) (flags : BitVec 3) (regionOk stopped : Bool) : Debug :=
  let entry := flags.getLsbD 2
  { d.bare with
    st := if entry || stopped then .stopped else .running, cause := if entry then 4 else if stopped then 5 else 0
    recMode := flags.getLsbD 0 && regionOk }

/-- A log region begins anew with its first checkpoint (R314; log 40). -/
def newRegion (v : Word) (d : Debug) : Debug :=
  { d with recbase := v &&& 0x000FFFFFFFC00000, cpSeq := 0, cpRetired := d.retired, logged := 0, hist := [], newer := 0, viewAt := none }

/-- The debug block of a group that resumes on a core: the group's stop and log with the core's registers as they now stand (R308,
R309). -/
def Debug.rejoin (d cur : Debug) : Debug :=
  let e := { d with bpa := cur.bpa, wpa := cur.wpa, wpl := cur.wpl, terrLane := cur.terrLane, terrCount := cur.terrCount }
  if d.recbase == cur.recbase then e else newRegion cur.recbase e

/-- The log region of RECBASE (R314): its base, and whether it lies in the partition. -/
def recBase (d : Debug) : Nat := (d.recbase.extractLsb' 22 30).toNat * 2 ^ 22

def recRegionOk (s : State) (c : Core) (partn : BitVec 4) : Bool :=
  recBase c.dbg != 0 && (List.range 4).all (fun i => paOk s.part partn.toNat (recBase c.dbg + i * 2 ^ 20))

/-- A core started on virtual core v (R35), held where its group is (R341); `new` at the first start of the group there, from which ADVST.cause reads 0 (DESIGN
CHOICE: R118 does not say; log 52). -/
def startCore (s : State) (d : Vd) (g : Group) (v wave : Nat) (new : Bool) (c : Core) : Core :=
  let b := c.bare
  let adv := if new then { c.adv.fresh with aentry := g.lr.aentry, ctab := g.lr.ctab } else c.adv
  { b with
    run := .running, view := .u, pc := g.lr.sentry, s := startRegs g.lr v wave, poisonV := BitVec.allOnes 32
    cgid := g.cgid, vdid := g.vdid, part := d.part, adv := advStart adv
    advCnt := if new then ⟨0, 0, 0, 0⟩ else c.advCnt
    held := s.cores.any (fun x => inGroup g.cgid x && (x.held || x.entry.isSome))
    dbg := c.dbg.start g.lr.dflags (recRegionOk s c d.part) g.stopped }

/-- The scrub of a core (R254): its store zeroed, its registers and S bank too, its TLB cleared. -/
def scrubCore (s : State) (i : Fin 1024) : State :=
  let key := coreKey i.val 0
  let s1 := { s with
    loc := s.loc.makeZero key 0x80000
    locPoison := s.locPoison.filter (fun q => !decide (key / 32 ≤ q ∧ q < key / 32 + 0x4000))
    part := { s.part with scrubDue := s.part.scrubDue &&& ~~~(BitVec.twoPow 1024 i.val) } }
  let c := s1.getCore i
  s1.putCore { c.bare with sBank := Vector.replicate 8 0, adv := c.adv.fresh, run := c.run, tlb := [] }

def wantsScrub (s : State) (d : Vd) (i : Nat) : Bool :=
  s.part.scrubDue.getLsbD i || (d.shared.getLsbD i && s.cores.any (fun c => c.index.val == i && c.vdid != d.vdid))

def scrubIf (s : State) (d : Vd) (i : Nat) : State :=
  if wantsScrub s d i then scrubCore s (Fin.ofNat 1024 i) else s

/-- One assignment of a wave started. -/
def startOne (d : Vd) (g : Group) (wave : Nat) (s : State) (p : Nat × Nat) : State :=
  let i := Fin.ofNat 1024 p.2
  let s1 := scrubIf s d p.2
  let c := s1.getCore i
  let new := c.run == .off
  s1.putCore (startCore s1 d g p.1 wave new c)

/-- A core whose group stops because of another core (R309). -/
def Core.stopWith (c : Core) : Core :=
  if c.dbg.st == .stopped then c else { c with dbg := { c.dbg with st := .stopped, cause := 5, bp := 0 } }

/-- One die scheduler takes a packet: it computes the whole assignment of the wave, as every other die does, and starts those
of its cores that lie on its own die (R24, R33, R34); a core that stops at its entry stops the others (R309). With the last die, the cores of the mask that a last wave does not need
are free. -/
def startWave (s : State) (g : Group) (k : Packet) (die : Fin 4) : State :=
  match findVd s.part g.vdid with
  | none => s
  | some d =>
    let r := assignWave g.lr (maskCores g.mask) g.first
    let mine := r.1.filter (fun x => x.2 / 256 == die.val)
    let last := k.dies == BitVec.twoPow 4 die.val
    let g1 := { g with first := if last then r.2 else g.first, live := if k.dies == 0xF then r.1.length else g.live, wave := k.wave
                       stopped := g.stopped || (g.lr.dflags.getLsbD 2 && !mine.isEmpty) }
    let s0 := mine.foldl (startOne d { g1 with stopped := g.stopped } k.wave) { s with part := setGroup s.part g1 }
    let s1 := if g1.stopped then s0.mapCores (fun c => if inGroup g.cgid c && c.run == .running then c.stopWith else c) else s0
    if !last || g1.first < unitCount g.lr then s1
    else s1.mapCores (fun c => if inGroup g.cgid c && c.run == .done then c.leave else c)

/-- The lowest die that the oldest packet on its way has still to reach. -/
def packetDie (p : Part) : Option (Fin 4) :=
  p.packets.findSome? (fun k => (List.finRange 4).find? (fun d => k.dies.getLsbD d.val))

/-- The oldest packet that a die has still to take reaches that die; with the last die, a resumed group starts to restore. -/
def takePacket (die : Fin 4) (s : State) : State :=
  match s.part.packets.find? (fun k => k.dies.getLsbD die.val) with
  | none => s
  | some k =>
    let left := k.dies &&& ~~~(BitVec.twoPow 4 die.val)
    let ks := if left == 0 then s.part.packets.erase k
      else s.part.packets.map (fun x => if x == k then { x with dies := left } else x)
    let s1 := { s with part := { s.part with packets := ks } }
    match findGroup s1.part k.cgid with
    | none => s1
    | some g =>
      if g.killed then s1
      else if !k.restore then startWave s1 g k die
      else if left == 0 then { s1 with part := setGroup s1.part { g with st := .restoring } }
      else s1

/-- LAUNCH PACKET: the scheduler of the lowest die that the oldest packet has still to reach takes it; the turn `packet` lets
another die take its own first (log 10). -/
def execLaunchPacket (s : State) : Out := .next (((packetDie s.part).map (fun d => takePacket d s)).getD s)

/-- NEXT WAVE (R34). -/
def execNextWave (cgid : BitVec 32) (s : State) : Out :=
  match findGroup s.part cgid with
  | none => .next s
  | some g =>
    if wantsWave g && !s.part.packets.any (fun p => p.cgid == cgid) then
      .next { s with part := { s.part with packets := s.part.packets ++ [⟨cgid, g.wave + 1, false, 0xF⟩] } }
    else .next s

/-! ## Saves and restores (R44, R45) -/

/-- The strip budget in force, in µs (R44). -/
def budgetOf (p : Part) (g : Group) : Nat :=
  if g.lr.budget != 0 then g.lr.budget else ((findVd p g.vdid).map (·.budget)).getD 100

/-- STRIP BUDGET EXPIRY: the active core yields at this boundary once its strip has run for the budget, or its group is
stopped, while a request is pending (R44, R309). -/
def execStripBudgetExpiry (s : State) : Out :=
  match findGroup s.part s.core.cgid with
  | none => .next s
  | some g =>
    if g.preempt && s.core.run == .running && mayYield s.core
        && (g.stopped || decide (budgetOf s.part g * 1000 ≤ s.core.stripNs)) then
      .next (yieldCore s)
    else .next s

/-- Ranges of a core's store that a save holds: keep ranges and the regions of tiles not empty (R45). -/
def keepRanges (g : Group) (c : Core) : List (Nat × Nat) :=
  g.lr.keeps.filter (fun k => k.2 != 0) ++ (c.tiles.toList.filter (fun t => t.st != .empty)).map (fun t => (t.base, t.len))

/-- Which core of the virtual device this is, over both masks ascending (R272). -/
def saveIndex (d : Vd) (i : Nat) : Nat := ((maskCores (d.excl ||| d.shared)).filter (fun j => decide (j < i))).length

/-- Bytes of a core's saved state, by the parts of R45 (log 4). -/
def saveBytes (g : Group) (c : Core) : Nat :=
  let live := ((List.range 32).filter (fun i => !c.poisonV.getLsbD i)).length
  600 + 4096 * live + 1152 + 20 * c.viq.length + 4096 * c.vq.toList.flatten.length
    + 8 * (c.q4.length + c.q5.length + c.q6.length) + c.q7.length + 4096 + 65536 * bits4 c.acc + 20 * c.defer.length
    + (keepRanges g c).foldl (fun n r => n + r.2) 0

/-- A save or a restore of a core charged to its virtual device, between its cluster and its save area, without waiting
(R267). -/
def chargeSave (s : State) (d : Vd) (g : Group) (c : Core) (toHome : Bool) : State :=
  let base := d.save + saveIndex d c.index.val * 2 ^ 21
  mapPart s (fun p => (List.range ((saveBytes g c + 4095) / 4096)).foldl
    (fun p i => chargeHome p d.vdid .save (c.index.val / 8) (base + i * 4096) 4096 toHome) p)

/-- The save area of a core is written: its bytes become undefined, as no layout is given (R45; log 15). -/
def freeSaveArea (s : State) (d : Vd) (i : Nat) : State :=
  let base := d.save + saveIndex d i * 2 ^ 21
  { s with mem := (List.range 512).foldl (fun m p => m.makeFree (memKey s.part (base + p * 4096)) 4096 s.free) s.mem
           free := s.free + 1 }

/-- One core's state taken into the save, and the core freed. Matrix operations that have issued and not begun go on after the
restore (DESIGN CHOICE: R44 speaks of an mmul in progress only; log 70). -/
def saveCore (d : Vd) (s : State) (c : Core) : State :=
  let s1 := leaveSems (freeSaveArea s d c.index.val) c.index
  let stamped (t : Tile) : Tile := { t with stamp := t.stamp.map (fun x => { x with flags := x.flags ||| 1 }) }
  let saved := { c with tiles := c.tiles.map stamped, held := false, stripNs := 0 }
  let freed := { c.discard with run := .off, held := false, tiles := Vector.replicate 64 Tile.empty, dbg := c.dbg.bare }
  match findGroup s1.part c.cgid with
  | none => s1
  | some g =>
    let l := keepRanges g c
    let kept := l.map (fun r => (coreKey c.index.val r.1, s1.loc.readList (coreKey c.index.val r.1) r.2))
    let bad := s1.locPoison.filter (fun q => l.any (fun r =>
      decide (coreKey c.index.val r.1 / 32 ≤ q ∧ q < (coreKey c.index.val r.1 + r.2 + 31) / 32)))
    let s2 := chargeSave (c.tiles.toList.foldl (fun t x => endTileReuse t c.index x.base) (s1.putCore freed)) d g c true
    let g1 := { g with saved := g.saved ++ [saved], kept := g.kept ++ kept, keptPoison := g.keptPoison ++ bad }
    { s2 with part := setGroup s2.part g1 }

/-- Whether every core of a group that still runs a virtual core has yielded, its EP and vector memory queue empty or blocked on
queues, and no pass that the array has begun is still to complete, unless its engines are frozen (R44 steps 1 and 3, R311). -/
def saveReady (s : State) (g : Group) : Bool :=
  let yielded := s.cores.filter (fun c => inGroup g.cgid c && c.run == .yielded)
  !g.killed && (g.st == .saving || g.st == .running) && !yielded.isEmpty
    && !s.cores.any (fun c => inGroup g.cgid c && c.run == .running)
    && yielded.all (fun c => (standing (activate s c.index)).isSome && (c.dbg.st != .running && c.freeze.getLsbD 0 || !c.mats.any (fun m => !m.bs.isEmpty)))

/-- PRE-EMPTION SAVE COMPLETE: every core's state is saved, its core free, and the group joins its resume list (R44, R45,
R252). -/
def execPreemptionSaveComplete (cgid : BitVec 32) (s : State) : Out :=
  match findGroup s.part cgid with
  | none => .next s
  | some g =>
    match findVd s.part g.vdid with
    | none => .next s
    | some d =>
      if !saveReady s g then .next s
      else
        let s0 := { s with part := setGroup s.part { g with saved := [], kept := [], keptPoison := [] } }
        let s1 := (s.cores.filter (inGroup cgid)).foldl (saveCore d) s0
        match findGroup s1.part cgid with
        | none => .next s1
        | some x =>
          let p := setGroup s1.part { x with st := .saved, preempt := false }
          let d1 := (findVd p g.vdid).getD d
          .next { s1 with part := setVd p { d1 with resume := d1.resume.set g.lr.prio (d1.resume[g.lr.prio] ++ [cgid]) } }

/-- One saved core put back: undefined bytes around its kept ranges, no row lanes until the arbiter grants them, its sequencer
loading anew where a virtual core goes on there (R45, R109, R119). ADVST.cause reads 0 (DESIGN CHOICE; log 52). -/
def restoreCore (d : Vd) (g : Group) (s : State) (c : Core) : State :=
  let s0 := chargeSave (scrubIf s d c.index.val) d g c false
  let key := coreKey c.index.val 0
  let s1 := { s0 with
    loc := s0.loc.makeFree key 0x80000 s0.free, free := s0.free + 1
    locPoison := s0.locPoison.filter (fun q => !decide (key / 32 ≤ q ∧ q < key / 32 + 0x4000)) }
  let old := s1.getCore c.index
  s1.putCore { c with
    sBank := old.sBank, xmask := old.xmask, alcCeil := old.alcCeil, alcCur := old.alcCur, lmap := old.lmap
    capbase := old.capbase, timing := old.timing, idleEdges := old.idleEdges, gated := old.gated
    icache := old.icache, tlb := old.tlb, lanes := 0, put := []
    dbg := { c.dbg.rejoin old.dbg with recMode := g.lr.dflags.getLsbD 0 && recRegionOk s1 old d.part }
    run := if c.run == .yielded then .running else c.run
    adv := let a := { old.adv.fresh with aentry := c.adv.aentry, ctab := c.adv.ctab }
           if c.run == .yielded then advStart a else a }

/-- RESTORE COMPLETE (R45, R410). -/
def execRestoreComplete (cgid : BitVec 32) (s : State) : Out :=
  match findGroup s.part cgid with
  | none => .next s
  | some g =>
    match findVd s.part g.vdid with
    | none => .next s
    | some d =>
      if g.st != .restoring then .next s
      else
        let s1 := g.saved.foldl (restoreCore d g) s
        let s2 := { s1 with
          loc := g.kept.foldl (fun m k => m.writeList k.1 k.2) s1.loc
          locPoison := g.keptPoison.foldl natInsert s1.locPoison }
        match findGroup s2.part cgid with
        | none => .next s2
        | some x => .next { s2 with part := setGroup s2.part { x with st := .running, saved := [], kept := [], keptPoison := [] } }

end Sys2Proof.Machine
end

