-- ==== Sys2Proof/Machine/Copy.lean ====
section
/-! DEFINITION. Class 6: tiles (R76, R223 to R225), copies (R226 to R229, R384 to R386), streams (R230, R231, R387), counters
(R232, R233) and cpyresume (R351), with the events of the copy engine. -/

namespace Sys2Proof.Machine

open Sys2Proof

/-! ## Tiles -/

def Core.setTile (c : Core) (t : TSlot) (x : Tile) : Core := { c with tiles := c.tiles.set t x }

def Core.updStamp (c : Core) (t : TSlot) (f : Stamp → Stamp) : Core :=
  c.setTile t { c.tiles[t] with stamp := (c.tiles[t]).stamp.map f }

/-- An instruction that names a tile as a source has issued or has finished reading it (R315). -/
def Core.useTile (c : Core) (t : TSlot) (now : Word) : Core :=
  c.updStamp t (fun x => { x with firstUse := if x.firstUse == 0 then now else x.firstUse })
def Core.usedTile (c : Core) (t : TSlot) (now : Word) : Core := c.updStamp t (fun x => { x with computeEnd := now })

/-- The first fill of a tile issues (R315). -/
def Core.startFill (c : Core) (t : TSlot) (now : Word) : Core :=
  c.updStamp t (fun x => { x with fillStart := if x.fillStart == 0 then now else x.fillStart })

/-- A fill of a tile completes; the last one makes it ready (R76). -/
def Core.fillTile (c : Core) (t : TSlot) (now : Word) : Core :=
  let x := c.tiles[t]
  if x.st != .filling then c
  else if x.fills ≤ 1 then (c.setTile t { x with st := .ready, fills := 0 }).updStamp t (fun y => { y with ready := now })
  else c.setTile t { x with fills := x.fills - 1 }

/-- Whether a pending operation still reads a tile. -/
def readsTile (i : Instr) (t : TSlot) : Bool :=
  match i with
  | .mpack _ ta _ _ _ _ _ => ta == t
  | .mmul _ ta (.tile tb) _ _ _ _ => ta == t || tb == t
  | .mmul _ ta (.sp _) _ _ _ _ => ta == t
  | _ => false

def tileBusy (c : Core) (t : TSlot) : Bool := c.mats.any (fun m => readsTile m.ins t)

def regionsMeet (b1 l1 b2 l2 : Nat) : Bool := decide (b1 < b2 + l2 ∧ b2 < b1 + l1)

/-- Whether the active core's group has a launch debug flag set. -/
def dflag (s : State) (n : Nat) : Bool := ((findGroup s.part s.core.cgid).map (fun g => g.lr.dflags.getLsbD n)).getD false

def Stamp.new : Stamp := ⟨0, 0, 0, 0, 0, 0, 0⟩

/-- tdecl (R223). -/
def execTdecl (t : TSlot) (a b : SReg) (fills : BitVec 16) (s : State) : Out :=
  let base := (s.sreg a).toNat
  let len := (s.sreg b).toNat
  let c := s.core
  if base % 32 != 0 || len % 32 != 0 || len == 0 || decide (0x80000 < base + len) || c.tiles[t].st != .empty
      || c.tiles.toList.any (fun x => x.st != .empty && regionsMeet base len x.base x.len) then raise s kIllegalOperand
  else
    let now := s.cycle
    let st := if dflag s 1 then some (if fills == 0 then { Stamp.new with fillStart := now, ready := now } else Stamp.new) else none
    .next ((s.updCore (fun c => c.setTile t ⟨if fills == 0 then .ready else .filling, base, len, fills.toNat, st⟩)).advance len3)

/-- A draining tile that no instruction reads any more is empty. -/
def retireTile (s : State) (t : TSlot) : State :=
  if s.core.tiles[t].st == .draining && !tileBusy s.core t then
    let p := emptyTile s s.core t 0
    p.1.withCore p.2
  else s

/-- trel (R224). -/
def execTrel (t : TSlot) (s : State) : Out :=
  if s.core.tiles[t].st != .ready then .next (takeFault s { apFault s kTileState with sub := BitVec.ofNat 16 t.val })
  else
    let s1 := s.updCore (fun c => (c.setTile t { c.tiles[t] with st := .draining }).updStamp t (fun x => { x with drainStart := s.cycle }))
    .next ((retireTile s1 t).advance len1)

/-- TILE RETIRE (R76). -/
def execTileRetire (t : TSlot) (s : State) : Out := .next (retireTile s t)

def tileCode : TileSt → Nat
  | .empty => 0
  | .filling => 1
  | .ready => 2
  | .draining => 3

/-- tstate (R225). -/
def execTstate (d : SReg) (t : TSlot) (s : State) : Out :=
  let x := s.core.tiles[t]
  .next (s.retire d (BitVec.ofNat 64 (tileCode x.st + x.fills % 2 ^ 16 * 2 ^ 16)) len1)

/-- A tile-state fault names the slot in sub (R343). -/
def tileFault (s : State) (t : TSlot) : Out :=
  .next (takeFault s { apFault s kTileState with sub := BitVec.ofNat 16 t.val })

/-- A wait on a filling tile; the watchdog counts from the instruction's issue, whichever of its tiles it waits on (R76,
R389). -/
def waitTile (s : State) (t : TSlot) : Out :=
  match s.core.wait with
  | .tile _ n => .next (s.waitAs (.tile t n))
  | _ => .next (s.waitAs (.tile t 0))

/-! ## Patterns -/

/-- A piece of a destination sector: source address, bytes, offset in the sector. -/
structure CPiece where
  va : Word
  n : Nat
  off : Nat
  deriving DecidableEq, Repr

/-- A destination sector, with its source address as a resume point names it, and its pieces; bytes without a piece are
zero (R228). -/
structure Sector where
  dst : Word
  src : Word
  pieces : List CPiece
  deriving DecidableEq, Repr

def sxt32 (x : BitVec 32) : Word := x.signExtend 64

/-- Shape of a cpy (R227): n0, n1, n2, S1, S2, D1, D2. -/
def cpyN0 (c : CopyOp) : Nat := (c.sh0.extractLsb' 0 24).toNat
def cpyN1 (c : CopyOp) : Nat := (c.sh0.extractLsb' 24 20).toNat
def cpyN2 (c : CopyOp) : Nat := (c.sh0.extractLsb' 44 20).toNat

def cpySectors (c : CopyOp) : List Sector :=
  let runs := cpyN0 c / 32
  (List.range (cpyN2 c)).flatMap (fun i2 => (List.range (cpyN1 c)).flatMap (fun i1 => (List.range runs).map (fun x =>
    let at_ (base : Word) (sh : Word) : Word :=
      base + BitVec.ofNat 64 i2 * sxt32 (sh.extractLsb' 32 32) + BitVec.ofNat 64 i1 * sxt32 (sh.extractLsb' 0 32) + BitVec.ofNat 64 (32 * x)
    let src := at_ c.src c.sh1
    ⟨at_ c.dst c.sh2, src, [⟨src, 32, 0⟩]⟩)))

/-- cpyseg (R228): field i of records j, with the permutation when asked for. -/
def segSectors (c : CopyOp) (f size : Nat) (perm : Bool) : List Sector :=
  let n := (c.sh0.extractLsb' 0 16).toNat
  let per := 32 / size
  let row (j : Nat) : Nat := if perm then idxOf (c.idx.getD 0) j else j
  (List.range f).flatMap (fun i => (List.range (n * size / 32)).map (fun k =>
    let srcOf (j : Nat) : Word := c.src + BitVec.ofNat 64 ((row j * f + i) * size)
    let js := (List.range per).map (fun q => k * per + q)
    ⟨c.dst + BitVec.ofNat 64 i * c.sh1 + BitVec.ofNat 64 (32 * k), srcOf (k * per),
     (js.filter (fun j => decide (row j < n))).map (fun j => ⟨srcOf j, size, (j - k * per) * size⟩)⟩))

/-- cpyx (R229): row j from the index's row. -/
def rowSectors (c : CopyOp) : List Sector :=
  let n := (c.sh0.extractLsb' 0 16).toNat
  let l := (c.sh0.extractLsb' 16 24).toNat
  (List.range n).flatMap (fun j => (List.range (l / 32)).map (fun k =>
    let src := c.src + BitVec.ofNat 64 (idxOf (c.idx.getD 0) j) * c.sh1 + BitVec.ofNat 64 (32 * k)
    ⟨c.dst + BitVec.ofNat 64 (j * l + 32 * k), src, [⟨src, 32, 0⟩]⟩))

/-- The sectors of a copy in ascending destination address (R86). -/
def copySectors (c : CopyOp) : List Sector :=
  let l := match c.ins with
    | .cpyseg _ _ _ _ _ f size perm _ _ _ => segSectors c f.toNat (codeBytes size) perm
    | .cpyx _ _ _ _ _ _ _ _ => rowSectors c
    | _ => cpySectors c
  l.mergeSort (fun x y => decide (x.dst.toNat ≤ y.dst.toNat))

/-! ## The engine's accesses -/

/-- What an engine's access comes to: done, waiting, or a fault in the state that its walk leaves. -/
inductive EngRes (α : Type) where
  | ok (x : α)
  | stall
  | fault (s : State) (kind : BitVec 8) (level : Nat) (addr : Word)
  deriving DecidableEq, Repr

/-- n bytes read by the copy engine at a tagged address, within one sector: the state after, the value, poison (R371). -/
def engRead (s : State) (va : Word) (n : Nat) : EngRes (State × Nat × Bool) :=
  match tagged va with
  | .badLoc => .fault s kLocalSpace 0 va
  | .loc l =>
    match localCheck s l with
    | .bad | .ok (.fifo _) => .fault s kLocalSpace 0 va
    | .stall => .stall
    | .ok (.bytes key) => .ok (chargeLocal s key n false, s.loc.readN key n, touchesPoison s.locPoison key n)
  | .gen g =>
    match s.check .load g with
    | .fault f => .fault (walkPoisonLog (walkedTo s f) f) f.kind f.level va
    | .stall => .stall
    | .ok x =>
      if loadHeld s s.cl x.pa n then .stall
      else
      let s1 := loadPrep s s.cl s.core.vdid x.pa n (s.way x g false)
      let bad := linePoisoned s1 s1.cl x.pa n
      .ok (if bad then setPseen s1 x.leafAddr else s1, lineRead s1 s1.cl x.pa n, bad)

/-- A sector of generic memory marked or cleared, in the W line that holds it or in memory (R371, R372). -/
def markSector (s : State) (pa : Nat) (bad : Bool) : State :=
  match findWLine (getCl s s.cl) (lineOf pa) with
  | some _ =>
    let q := BitVec.twoPow 4 (pa / 32 % 4)
    updCl s s.cl (fun c => { c with ws := c.ws.map (fun y => if y.line == lineOf pa then
      (if bad then { y with poison := y.poison ||| q, clean := y.clean &&& ~~~q }
       else { y with clean := y.clean ||| q, poison := y.poison &&& ~~~q }) else y) })
  | none => if bad then setPoison s pa else clearPoison s pa

/-- One whole sector of own or other local space. -/
def locSector (s : State) (key v : Nat) (bad : Bool) : State :=
  let s1 := locPut s key 32 v
  if bad then setLocPoison s1 key else clearLocPoison s1 key

/-- One whole sector written by the copy engine at a tagged address. -/
def engWrite (s : State) (va : Word) (v : Nat) (bad : Bool) : EngRes State :=
  match tagged va with
  | .badLoc => .fault s kLocalSpace 0 va
  | .loc l =>
    match localCheck s l with
    | .bad | .ok (.fifo _) => .fault s kLocalSpace 0 va
    | .stall => .stall
    | .ok (.bytes key) => .ok (locSector (chargeLocal s key 32 true) key v bad)
  | .gen g =>
    match s.check .store g with
    | .fault f => .fault (walkPoisonLog (walkedTo s f) f) f.kind f.level va
    | .stall => .stall
    | .ok x => .ok (markSector (genStore s s.cl s.core.vdid x.pa 32 v (s.way x g false)) x.pa bad)

/-- Pieces of a sector read: value in place, poison. -/
def readPieces32 (s : State) : List CPiece → EngRes (State × Nat × Bool)
  | [] => .ok (s, 0, false)
  | p :: t =>
    match engRead s p.va p.n with
    | .stall => .stall
    | .fault u k l a => .fault u k l a
    | .ok r =>
      match readPieces32 r.1 t with
      | .ok q => .ok (q.1, r.2.1 * 256 ^ p.off + q.2.1, r.2.2 || q.2.2)
      | x => x

/-- One sector charged at the copy arbiter of the active core's cluster (R226, R267). -/
def chargeSector (s : State) : State :=
  mapPart s (fun p => charge p 5 s.cl.val s.core.vdid (groupWork p s.core.cgid) 1)

/-- Sectors moved in order, at most n of them; equal destinations each end with one of the whole values, by the free
counter (R226; log 2). The state, the sectors moved, and what stopped them. -/
def moveSectors : Nat → Option Word → List Sector → State → Nat → State × Nat × EngRes Unit
  | 0, _, _, s, k => (s, k, .ok ())
  | _, _, [], s, k => (s, k, .ok ())
  | n + 1, prev, x :: t, s, k =>
    match readPieces32 s x.pieces with
    | .stall => (s, k, .stall)
    | .fault u a b c => (u, k, .fault u a b c)
    | .ok r =>
      match engWrite r.1 x.dst r.2.1 r.2.2 with
      | .stall => (s, k, .stall)
      | .fault u a b c => (u, k, .fault u a b c)
      | .ok s1 =>
        let keep := prev == some x.dst && Config.freeBit s.free
        let s2 := chargeSector (if keep then s else s1)
        moveSectors n (some x.dst) t { s2 with free := s.free + 1 } (k + 1)

/-- The add to a completion counter at a tagged address (R77). -/
def engAdd (s : State) (va : Word) : EngRes State :=
  match tagged va with
  | .badLoc => .fault s kLocalSpace 0 va
  | .loc l =>
    match localCheck s l with
    | .bad | .ok (.fifo _) => .fault s kLocalSpace 0 va
    | .stall => .stall
    | .ok (.bytes key) =>
      if touchesPoison s.locPoison key 8 then .fault s kData 0 va
      else .ok (locPut s key 8 ((s.loc.readN key 8 + 1) % 2 ^ 64))
  | .gen g =>
    match s.check .atomic g with
    | .fault f => .fault (walkPoisonLog (walkedTo s f) f) f.kind f.level va
    | .stall => .stall
    | .ok x =>
      let s1 := atomicPrep s s.cl s.core.vdid x.pa (s.way x g false)
      let key := memKey s1.part x.pa
      if touchesPoison s1.poison key 8 then .fault (setPseen s1 x.leafAddr) kData 0 va
      else .ok (memPut s1 x.pa 8 ((homeValue s1 x.pa 8 + 1) % 2 ^ 64))

/-! ## Copies in flight -/

def Core.setCopy (c : Core) (x : CopyOp) : Core := { c with copies := c.copies.map (fun y => if y.seq == x.seq then x else y) }
def Core.dropCopy (c : Core) (x : CopyOp) : Core := { c with copies := c.copies.filter (fun y => y.seq != x.seq) }

/-- Whether the core's engines are frozen: while its group is stopped, a step of a core included (R310, R311). -/
def engFrozen (c : Core) : Bool := c.dbg.st != .running && c.freeze.getLsbD 0

/-- Whether a copy has its index register, if it needs one. -/
def idxReady (c : CopyOp) : Bool :=
  match c.ins with
  | .cpyseg _ _ _ _ _ _ _ perm _ _ _ => !perm || c.idx.isSome
  | .cpyx _ _ _ _ _ _ _ _ => c.idx.isSome
  | _ => true

/-- A copy stopped at its `done` sector (R384). -/
def stopCopy (s : State) (x : CopyOp) (k : BitVec 8) (lvl : Nat) (addr : Word) : State :=
  s.updCore (fun c =>
    let c1 := c.setCopy { x with st := .stopped k lvl addr s.part.tstamp false }
    match x.tile with
    | some t => c1.updStamp t (fun y => { y with flags := y.flags ||| 2 })
    | none => c1)

/-- A copy moves up to n sectors, and completes when all are written: the counter add, then the tile fill (R226, R386). -/
def runCopy (s : State) (x : CopyOp) (n : Nat) : State :=
  if engFrozen s.core || x.st != .moving || !idxReady x then s
  else
    let all := copySectors x
    let prev := if x.done = 0 then none else (all[x.done - 1]?).map (·.dst)
    let r := moveSectors n prev (all.drop x.done) s x.done
    let y := { x with done := r.2.1 }
    match r.2.2 with
    | .fault _ k l a => stopCopy r.1 y k l a
    | .stall => r.1.updCore (fun c => c.setCopy y)
    | .ok _ =>
      if y.done < all.length then r.1.updCore (fun c => c.setCopy y)
      else
        let fin (t : State) : State := t.updCore (fun c =>
          let c1 := c.dropCopy y
          match y.tile with
          | some ts => c1.fillTile ts t.cycle
          | none => c1)
        match y.ctr with
        | none => fin r.1
        | some va =>
          match engAdd (flushAllW r.1 r.1.cl) va with
          | .ok s2 => fin s2
          | .stall => r.1.updCore (fun c => c.setCopy y)
          | .fault u k l a => stopCopy u y k l a

/-- COPY COMPLETE: every sector left is moved (R226). -/
def execCopyComplete (i : Nat) (s : State) : Out :=
  match s.core.copies[i]? with
  | none => .next s
  | some x => .next (runCopy s x (copySectors x).length)

/-- Kinds that stop a copy for the supervisor (R384). -/
def copyRepair (k : BitVec 8) : Bool := k == kNotPresent || k == kPermission || k == kCopyOnWrite || k == kPageState

def isStopped (x : CopyOp) : Bool := x.st.faulted

/-- The index of a copy among the stopped ones, oldest first (R351). -/
def stoppedIndex (c : Core) (x : CopyOp) : Nat := ((c.copies.filter isStopped).takeWhile (fun y => y.seq != x.seq)).length

/-- Where a copy stands: source and destination of its next sector, or one past the last (R226, R386). -/
def resumePoint (x : CopyOp) : Word × Word :=
  let all := copySectors x
  match all[x.done]? with
  | some y => (y.src, y.dst)
  | none =>
    match all.getLast? with
    | some y => (y.src + 32, y.dst + 32)
    | none => (x.src, x.dst)

/-- A stopped copy that the supervisor may repair. -/
def repairCopy (x : CopyOp) : Bool :=
  match x.st with
  | .stopped k _ _ _ _ => copyRepair k
  | .moving => false

/-- TAKING A COPY FAULT at an AP boundary (R341, R346, R384): a repair kind enters the supervisor as kind copy, and only
in the U view of a core that runs, behind the class-4 instructions before it (R347): one that has yielded keeps the stopped copy,
which is saved with it (R385); any other kind kills. -/
def takeCopyFault (s : State) (x : CopyOp) : State :=
  match x.st with
  | .stopped k lvl addr time false =>
    let p := resumePoint x
    let f : FaultInfo :=
      { apFault s k with addr := some addr, resume := p.1, rdst := p.2, sub := BitVec.ofNat 16 lvl, time := some time }
    if copyRepair k then
      if s.core.view == .s || s.core.held || s.core.run == .yielded || entryWaits s then s
      else
        let s1 := s.updCore (fun c => c.setCopy { x with st := .stopped k lvl addr time true })
        takeFaultRet s1 { f with kind := kCopy, sub := BitVec.ofNat 16 (stoppedIndex s.core x) } s.core.pc s.core.wait
    else takeKill s f
  | _ => s

/-- COPY FAULT: the copy moves to the sector that fails, and its fault is taken. -/
def execCopyFault (i : Nat) (s : State) : Out :=
  match s.core.copies[i]? with
  | none => .next s
  | some x =>
    let s1 := runCopy s x (copySectors x).length
    match s1.core.copies.find? (fun y => y.seq == x.seq) with
    | some y => .next (takeCopyFault s1 y)
    | none => .next s1

/-! ## Issue of a copy -/

/-- The smallest and one past the largest destination offset of a copy, as integers. -/
def boxOf (c : CopyOp) : Int × Int :=
  let d := (c.dst.toNat : Int)
  let lo (x : Int) : Int := if x < 0 then x else 0
  let hi (x : Int) : Int := if x < 0 then 0 else x
  match c.ins with
  | .cpyseg _ _ _ _ _ f size _ _ _ _ =>
    let n := ((c.sh0.extractLsb' 0 16).toNat : Int) * codeBytes size
    let e := ((f.toNat : Int) - 1) * c.sh1.toInt
    (d + lo e, d + hi e + n)
  | .cpyx _ _ _ _ _ _ _ _ =>
    (d, d + ((c.sh0.extractLsb' 0 16).toNat : Int) * (c.sh0.extractLsb' 16 24).toNat)
  | _ =>
    let e1 := ((cpyN1 c : Int) - 1) * (c.sh2.extractLsb' 0 32).toInt
    let e2 := ((cpyN2 c : Int) - 1) * (c.sh2.extractLsb' 32 32).toInt
    (d + lo e1 + lo e2, d + hi e1 + hi e2 + cpyN0 c)

/-- The limits of a copy's shape (R227 to R229, R364). -/
def shapeBad (c : CopyOp) : Bool :=
  match c.ins with
  | .cpyseg _ _ _ _ _ _ size _ _ _ _ =>
    let n := (c.sh0.extractLsb' 0 16).toNat
    c.sh0.extractLsb' 16 48 != 0 || n == 0 || decide (1024 < n) || n * codeBytes size % 32 != 0 || c.sh1.toNat % 32 != 0
  | .cpyx _ _ _ _ _ _ _ _ =>
    let n := (c.sh0.extractLsb' 0 16).toNat
    c.sh0.extractLsb' 40 24 != 0 || n == 0 || decide (1024 < n) || (c.sh0.extractLsb' 16 24).toNat % 32 != 0
      || c.sh1.toNat % 32 != 0
  | _ =>
    decide (cpyN0 c < 32) || cpyN0 c % 32 != 0 || cpyN1 c == 0 || cpyN2 c == 0
      || (c.sh1.extractLsb' 0 32).toNat % 32 != 0 || (c.sh1.extractLsb' 32 32).toNat % 32 != 0
      || (c.sh2.extractLsb' 0 32).toNat % 32 != 0 || (c.sh2.extractLsb' 32 32).toNat % 32 != 0

/-- The destination of a tile fill lies in the own store, in the tile's region (R226); a copy of no sectors lies nowhere. -/
def outsideTile (c : CopyOp) (x : Tile) : Bool :=
  let b := boxOf c
  let base : Int := 0x8000000000000000 + (x.base : Int)
  !(decide (b.2 ≤ b.1)) && !(decide (base ≤ b.1 ∧ b.2 ≤ base + x.len))

/-- The checks of an engine's base address at issue: R68 or R70, then alignment (R210, R353 step 8). -/
def baseCheck (s : State) (va : Word) (align : Nat) (k : Unit → Out) : Out :=
  match tagged va with
  | .badLoc => raiseAt s kLocalSpace 0 va
  | .loc l =>
    match localCheck s l with
    | .bad | .ok (.fifo _) => raiseAt s kLocalSpace 0 va
    | .stall => .next (s.waitAs .other)
    | .ok (.bytes _) => if alignedTo va align then k () else raiseAt s kAlignment 0 va
  | .gen g =>
    if g.extractLsb' 48 16 != 0 then raiseAt s kAddressRange 3 va
    else if alignedTo va align then k () else raiseAt s kAlignment 0 va

/-- The checks of a counter at issue: its place, alignment, translation for the add (R77, R226, R386). -/
def counterCheck (s : State) (va : Word) (acc : Acc) (k : Unit → Out) : Out :=
  baseCheck s va 8 (fun _ =>
    match tagged va with
    | .gen g =>
      match s.check acc g with
      | .fault f => raiseX s f va
      | .stall => .next (s.waitAs .other)
      | .ok _ => k ()
    | _ => k ())

/-- Whether an instruction that stands in the EP's order still writes a register, or may leave it dead. -/
def EpWork.writes (v : VReg) : EpWork → Bool
  | .ins i => (epVWrites i).contains v
  | .writeback l _ => l.any (fun w => w.1 == v)
  | .vm _ => true
  | .idx _ _ => false

/-- Whether the index register of a copy is still to be written: the AP waits, so that R364's check finds it as it stands at its
place; not where the EP stands on a queue, since the AP alone may move that (log 66). -/
def indexWaits (c : Core) (v : VReg) : Bool := c.viq.any (fun o => o.work.writes v) && !queuesStand c

/-- A copy accepted: it waits for its index register when instructions of the EP before it still write that (R226). -/
def acceptCopy (s : State) (x : CopyOp) (vi : Option VReg) : State :=
  let s1 := flushAllW s s.cl
  let now := s.cycle
  let ready := vi.all (fun v => !s.core.viq.any (fun o => o.work.writes v))
  let x1 := { x with idx := if ready then vi.map s.core.vreg else none }
  (s1.updCore (fun c =>
    let c1 := { c with copies := c.copies ++ [x1], seq := c.seq + 1 }
    let c2 := match x.tile with
      | some t => c1.startFill t now
      | none => c1
    match vi with
    | some v => if ready then c2 else { c2 with viq := c2.viq ++ [⟨.idx x.seq v, capture s 0 0 len3⟩] }
    | none => c2)).advance len3

/-- Issue of a copy, in the order of R353. -/
def issueCopy (x : CopyOp) (vi : Option VReg) (s : State) : Out :=
  if vi.any (indexWaits s.core) then .next (s.waitAs .behind)
  else
  match (vi.filter (fun v => !s.core.viq.any (fun o => o.work.writes v) && s.core.isPoisoned v)) with
  | some v => .next (takeFault s { apFault s kDeadRegister with element := regNum v })
  | none =>
    let region (t : TSlot) : Bool :=
      let y := s.core.tiles[t]
      (y.st == .filling || y.st == .ready) && outsideTile x y
    if shapeBad x || (x.tile.map region).getD false then raise s kIllegalOperand
    else
      match x.tile.filter (fun t => s.core.tiles[t].st != .filling) with
      | some t => tileFault s t
      | none =>
        if 256 ≤ s.core.copies.length then .next (s.waitAs .other)
        else if releaseWaits s then .next (s.waitAs .behind)
        else
          baseCheck s x.dst 32 (fun _ => baseCheck s x.src 32 (fun _ =>
            match x.ctr with
            | none => .next (acceptCopy s x vi)
            | some va => counterCheck s va .atomic (fun _ => .next (acceptCopy s x vi))))

def copyOp (i : Instr) (d a b c : SReg) (fill : Bool) (t : TSlot) (s : State) : CopyOp :=
  { ins := i, seq := s.core.seq, pc := s.core.pc, dst := s.sreg d, src := s.sreg a, sh0 := s.sreg b
    sh1 := s.sreg (b + 1), sh2 := s.sreg (b + 2), ctr := if c = 0 then none else some (s.sreg c)
    tile := if fill then some t else none, idx := none, done := 0, st := .moving }

def execCpy (sc : Scope) (d a b c : SReg) (fill : Bool) (t : TSlot) (s : State) : Out :=
  issueCopy (copyOp (.cpy sc d a b c fill t) d a b c fill t s) none s
def execCpyseg (sc : Scope) (d a b c : SReg) (f : BitVec 4) (size : Fin 4) (perm : Bool) (vi : VReg) (fill : Bool) (t : TSlot)
    (s : State) : Out :=
  issueCopy (copyOp (.cpyseg sc d a b c f size perm vi fill t) d a b c fill t s) (if perm then some vi else none) s
def execCpyx (sc : Scope) (d a b c : SReg) (vi : VReg) (fill : Bool) (t : TSlot) (s : State) : Out :=
  issueCopy (copyOp (.cpyx sc d a b c vi fill t) d a b c fill t s) (some vi) s

/-- cpyresume (R351): the stopped copy moves again, the core's earlier stores released first (R85). -/
def execCpyresume (d a : SReg) (s : State) : Out :=
  if s.core.view == .u then raise s kPrivilege
  else
    match (s.core.copies.filter isStopped)[(s.sreg a).toNat]? with
    | none => .next (s.retire d 1 len1)
    | some x =>
      if releaseWaits s then .next (s.waitAs .behind) else
      let s1 := flushAllW s s.cl
      .next ((s1.updCore (fun c => c.setCopy { x with st := .moving })).retire d 0 len1)

/-! ## Streams -/

/-- strm (R230). -/
def execStrm (_sc : Scope) (q : Fin 4) (a b : SReg) (w : Fin 4) (s : State) : Out :=
  let sh := s.sreg b
  let e := (sh.extractLsb' 0 16).toNat
  let n := (sh.extractLsb' 16 32).toNat
  if decide (e < 32 ∨ 4096 < e) || e % codeBytes w != 0 || n == 0 || sh.extractLsb' 48 16 != 0
      || (s.core.streams[q]).isSome || !(s.core.vq[q]).isEmpty then raise s kIllegalOperand
  else if releaseWaits s then .next (s.waitAs .behind)
  else
    baseCheck s (s.sreg a) 1 (fun _ =>
      let x : Stream := ⟨s.sreg a, s.sreg (b + 1), e, codeBytes w, n, 0, none⟩
      .next (((flushAllW s s.cl).updCore (fun c => { c with streams := c.streams.set q (some x), seq := c.seq + 1 })).advance len3))

/-- Pieces of n bytes from an address, none across a sector. -/
def bytePieces : Nat → Word → Nat → Nat → List CPiece
  | 0, _, _, _ => []
  | fuel + 1, va, n, off =>
    if n = 0 then []
    else
      let k := if 32 - va.toNat % 32 < n then 32 - va.toNat % 32 else n
      ⟨va, k, off⟩ :: bytePieces fuel (va + BitVec.ofNat 64 k) (n - k) (off + k)

/-- Pieces read, each with its poison by sectors of the entry. -/
def readEntry (s : State) : List CPiece → EngRes (State × Nat × BitVec 128)
  | [] => .ok (s, 0, 0)
  | p :: t =>
    match engRead s p.va p.n with
    | .stall => .stall
    | .fault u k l a => .fault u k l a
    | .ok r =>
      match readEntry r.1 t with
      | .ok q =>
        let bad := if r.2.2 then BitVec.twoPow 128 (p.off / 32) ||| BitVec.twoPow 128 ((p.off + p.n - 1) / 32) else 0
        .ok (q.1, r.2.1 * 256 ^ p.off + q.2.1, bad ||| q.2.2)
      | x => x

/-- STREAM ENTRY PUSH: the next entry is read and pushed while its queue has room; a fault stops the stream (R230, R387). -/
def execStreamEntryPush (q : Fin 4) (s : State) : Out :=
  match s.core.streams[q] with
  | none => .next s
  | some x =>
    if x.fault.isSome || decide (x.count ≤ x.next) || decide (4 ≤ (s.core.vq[q]).length) || engFrozen s.core then .next s
    else
      let va := x.base + BitVec.ofNat 64 x.next * x.stride
      match readEntry s (bytePieces 200 va x.bytes 0) with
      | .stall => .next s
      | .fault u k _ a => .next (u.updCore (fun c => { c with streams := c.streams.set q (some { x with fault := some (k, a) }) }))
      | .ok r =>
        .next (r.1.updCore (fun c =>
          { c.moved with vq := c.vq.set q (c.vq[q] ++ [⟨BitVec.ofNat 32768 r.2.1, x.bytes / x.width, r.2.2, 0⟩])
                         streams := c.streams.set q (some { x with next := x.next + 1 }) }))

/-- strmend (R231). -/
def execStrmend (q : Fin 4) (s : State) : Out :=
  if (s.core.streams[q]).isNone then .next (s.advance len1)
  else
    .next ((s.updCore (fun c => { c.moved with streams := c.streams.set q none, vq := c.vq.set q [] })).advance len1)

/-! ## Counters -/

/-- A ccwait has read its counter and is over; a watch range on it stops the group (R309). -/
def ccDone (s : State) (va : Word) (n : Nat) : State :=
  if va.getLsbD 63 then s.advance n else watch (s.advance n) va 8 false

/-- ccwait (R232, R388): released by a value that reached the target while it waited, or by the value that stands. -/
def execCcwait (_sc : Scope) (a : SReg) (y : RegLit) (s : State) : Out :=
  let va := s.sreg a
  let target := regLitVal s y
  let n := regLitLen y
  match s.core.wait with
  | .counter _ _ _ true => .next (ccDone s va n)
  | _ =>
    counterCheck s va .load (fun _ =>
      if vmqHolds s va 8 false then .next (s.waitAs .behind)
      else
        match engRead s va 8 with
        | .stall => .next (s.waitAs .other)
        | .fault u k l x => raiseAt u k l x
        | .ok r =>
          if r.2.2 then raiseAt r.1 kData 0 va
          else if target.toNat ≤ r.2.1 then .next (ccDone r.1 va n)
          else
            match tagged va with
            | .gen g =>
              match s.check .load g with
              | .ok x => .next (r.1.waitAs (.counter (memKey s.part x.pa) false target false))
              | _ => .next (s.waitAs .other)
            | .loc l =>
              match localCheck s l with
              | .ok (.bytes key) => .next (r.1.waitAs (.counter key true target false))
              | _ => .next (s.waitAs .other)
            | .badLoc => .next s)

/-- ccadd (R233): as if fence.rel stood before it. -/
def execCcadd (d a : SReg) (y : CcSrc) (s : State) : Out :=
  let v := (ccSrcVal s y).toNat
  atomicAt s (s.sreg a) 8 .rel (fun m => some ((m + v) % 2 ^ 64)) (fun s1 m => .next (s1.retire d (BitVec.ofNat 64 m) (ccSrcLen y)))

end Sys2Proof.Machine
end

