-- ==== Sys2Proof/Machine/Matrix.lean ====
section
/-! DEFINITION. Class 5 and collectives: attaching (R211 to R213), plane tiles (R64, R65, R215, R216), passes (R66, R217 to
R219), drains (R220), collectives (R221, R222, R289, R290, R376) and the matrix arbiter (R212, R265). -/

namespace Sys2Proof.Machine

open Sys2Proof

/-! ## Attaching -/

/-- GRANT (R212): lanes never reads above want, whatever the arbiter gave before want was lowered. -/
def grantImage (c : Core) : Word :=
  BitVec.ofNat 64 (c.acc.toNat + c.want % 32 * 2 ^ 8 + min c.lanes c.want % 32 * 2 ^ 16)

/-- mattach of a request (R211). -/
def attachReq (req : Word) (d : SReg) (n : Nat) (s : State) : Out :=
  let want := (req.extractLsb' 0 5).toNat
  let mask := req.extractLsb' 8 4
  if 16 < want || req.extractLsb' 5 3 != 0 || req.extractLsb' 12 52 != 0 then raise s kIllegalOperand
  else
    let new := mask &&& ~~~s.core.acc
    let fits := match s.vd with
      | some dv => accRoom s dv s.cl.val (bits4 new)
      | none => false
    let c := { s.core with want := want }
    let c1 := if fits then
        { c with acc := c.acc ||| new, z := Vector.ofFn (fun j : Fin 4 => if new.getLsbD j.val then 0 else c.z[j]) }
      else c
    .next ((s.withCore c1).retire d (grantImage c1) n)

def execMattach (d a : SReg) (s : State) : Out := attachReq (s.sreg a) d len1 s
def execMattachImm (d : SReg) (req : BitVec 32) (s : State) : Out := attachReq (req.zeroExtend 64) d len3 s

/-- The accumulator tile that an operation works on in order (R214, R220, R222). -/
def matZ (i : Instr) : Option ZReg :=
  match i with
  | .mzero z => some z
  | .mdrainf z _ _ => some z
  | i => matNames i

/-- mdetach (R213). -/
def execMdetach (mask : BitVec 6) (s : State) : Out :=
  let zs := mask.extractLsb' 0 4
  if s.core.mats.any (fun m => match matZ m.ins with
      | some z => zs.getLsbD z.val
      | none => false) then .next (s.waitAs .other)
  else
    .next ((s.updCore (fun c =>
      { c with acc := c.acc &&& ~~~zs, want := if mask.getLsbD 4 then 0 else c.want })).advance len1)

def attachedZ (c : Core) (z : ZReg) : Bool := c.acc.getLsbD z.val

/-! ## Accumulator contents -/

def zGet (z : Sys2Proof.Acc) (i j : Nat) : Nat := z.toNat / 2 ^ (32 * (256 * i + j)) % 2 ^ 32

/-- 16,384 elements from a function of the element number. -/
def accNat (f : Nat → Nat) : Nat → Nat
  | 0 => 0
  | n + 1 => accNat f n + f n % 2 ^ 32 * 2 ^ (32 * n)

def accOf (f : Nat → Nat → Nat) : Sys2Proof.Acc := BitVec.ofNat 524288 (accNat (fun n => f (n / 256) (n % 256)) 16384)

/-! ## Operations -/

def isPass (i : Instr) : Bool :=
  match i with
  | .mmul _ _ _ _ _ _ _ => true
  | _ => false

/-- An order list that has had a pass pending under it ends with the last pending pass (R248). -/
def Core.addMat (c : Core) (m : MatOp) : Core :=
  { c with mats := c.mats ++ [m], seq := c.seq + 1
           adv := if isPass m.ins then { c.adv with mord := c.adv.mord.map (fun o => (o.1, o.2.1, true)) } else c.adv }
def Core.dropMat (c : Core) (m : MatOp) : Core :=
  let rest := c.mats.filter (fun x => x.seq != m.seq)
  let passes := rest.any (fun x => isPass x.ins)
  { c with mats := rest, lanes := if passes then c.lanes else 0
           adv := if passes then c.adv else { c.adv with mord := c.adv.mord.filter (fun o => !o.2.2) } }

def newMat (s : State) (i : Instr) (bKey round : Nat) : MatOp :=
  ⟨i, s.core.seq, bKey, round, (s.part.dies[s.die]).edges, 0, 0, s.core.want, [], .moving⟩

/-- An engine issue releases at `.clus` (R85): queued vector stores first, W lines home. -/
def issueMat (m : MatOp) (n : Nat) (k : Core → Core) (s : State) : Out :=
  if releaseWaits s then .next (s.waitAs .behind)
  else .next (((flushAllW s s.cl).updCore (fun c => (k c).addMat m)).advance n)

/-- An operation stopped by poison: a data fault at the next AP boundary (R371, R376), and a mark in the stamp record of the tile that
it was filling (R315). Address 0 stands for none. -/
def poisonMat (s : State) (m : MatOp) (addr : Word) : State :=
  s.updCore (fun c =>
    let c1 := { c with mats := c.mats.map (fun x => if x.seq == m.seq then { x with st := .stopped kData 0 addr s.part.tstamp false } else x) }
    match matFills m.ins with
    | some t => c1.updStamp t (fun y => { y with flags := y.flags ||| 2 })
    | none => c1)

/-- Whether the i-th operation may run: it stands unstopped, and none before it works on its accumulator tile. -/
def matReady (c : Core) (i : Nat) : Option MatOp :=
  match c.mats[i]? with
  | none => none
  | some m =>
    let z := matZ m.ins
    let before := (c.mats.take i).any (fun x => z.isSome && matZ x.ins == z)
    if before || m.st != .moving || engFrozen c then none else some m

/-- TAKING A FAULT of the matrix unit at an AP boundary: it kills, in any view (R371, R384). -/
def takeMatFault (s : State) (m : MatOp) : State :=
  match m.st with
  | .stopped k lvl a time _ =>
    takeKill s { apFault s k with addr := if a == 0 then none else some a, sub := BitVec.ofNat 16 lvl, time := some time }
  | .moving => s

/-- mzero (R214). -/
def execMzero (z : ZReg) (s : State) : Out :=
  if !attachedZ s.core z then raise s kGrant
  else if s.core.mats.any (fun m => matZ m.ins == some z) then issueMat (newMat s (.mzero z) 0 0) len1 id s
  else .next ((s.updCore (fun c => { c with z := c.z.set z 0 })).advance len1)

/-! ## Plane tiles (R64, R215) -/

def tileKey (c : Core) (t : TSlot) : Nat := coreKey c.index.val (c.tiles[t]).base

def planeBytes (rows p : Nat) : Nat := rows * (32 * p + 8)

/-- Significand k of a row, or column, from its plane sectors, the least significant first (R64). -/
def sigOf (planes : List Nat) (k : Nat) : Int :=
  match planes with
  | [] => 0
  | [p] => if p.testBit k then -1 else 0
  | p :: t => (if p.testBit k then 1 else 0) + 2 * sigOf t k

/-- The plane sectors and the eight scales of row, or column, i of a plane tile at a key of local space. -/
def planeRow (m : Memory) (key rows p i : Nat) : List Nat × List Int :=
  ((List.range p).map (fun q => m.readN (key + (q * rows + i) * 32) 32),
   (List.range 8).map (fun b => intDecode 8 true (m.readN (key + p * rows * 32 + i * 8 + b) 1)))

/-! ## mpack (R216) -/

def mpackRows (b : Bool) (rows : BitVec 7) : Nat := if b then 256 else rows.toNat

/-- Source bytes of an mpack, its block scales included. -/
def mpackSrcBytes (et : ElemTy) (b scaled : Bool) (rows : BitVec 7) : Nat :=
  let n := mpackRows b rows
  n * 256 * vmSize et + if scaled then n * 8 else 0

/-- Source value of K index k of row, or column, i, with its scale (R216). -/
def mpackVal (m : Memory) (key : Nat) (et : ElemTy) (b scaled : Bool) (rows : BitVec 7) (i k : Nat) : Num :=
  let sz := vmSize et
  let at_ := if b then (k * 256 + i) * sz else (i * 256 + k) * sz
  let x := decElem et (m.readN (key + at_) sz)
  if !scaled then x
  else
    let elems := mpackRows b rows * 256 * sz
    let off := if b then k / 32 * 256 + i else i * 8 + k / 32
    let e := intDecode 8 true (m.readN (key + elems + off) 1)
    if e == -128 then .nan else x.scale e

/-- One block of 32 values packed to P planes: its scale and significands (R65). -/
def packPlanes (xs : List Num) (p : Nat) : Int × List Int :=
  if xs.any (fun x => !x.isFinite) then (-128, xs.map (fun _ => 0))
  else if xs.all Num.isZero then (-127, xs.map (fun _ => 0))
  else
    let emax := maxInt ((xs.filter (fun x => !x.isZero)).map floorLog2)
    let s := clampInt (-127) 127 (emax - ((p : Int) - 2))
    let lim : Int := 2 ^ (p - 1)
    let sig (s : Int) : List Int := xs.map (fun x => ((x.scale (-s)).toIntRm .rne 0).getD 0)
    let g := sig s
    if g.any (fun v => decide (lim ≤ (v.natAbs : Int))) then
      if s == 127 then (s, g.map (fun v => clampInt (-(lim - 1)) (lim - 1) v)) else (s + 1, sig (s + 1))
    else (s, g)

/-- The 256-bit sector of plane q of 256 significands. -/
def planeSector (sigs : List Int) (p q : Nat) : Nat :=
  (sigs.zipIdx).foldl (fun n x => if (intEncode p true false x.1).testBit q then n + 2 ^ x.2 else n) 0

/-- One row, or column, packed and written: its plane sectors and its scale bytes. -/
def packRow (dst rows p i : Nat) (val : Nat → Num) (w : Memory) : Memory :=
  let blocks := (List.range 8).map (fun b => packPlanes ((List.range 32).map (fun k => val (32 * b + k))) p)
  let sigs := blocks.flatMap (·.2)
  let w1 := (List.range p).foldl (fun w q => w.writeN (dst + (q * rows + i) * 32) 32 (planeSector sigs p q)) w
  (blocks.zipIdx).foldl (fun w x => w.writeN (dst + p * rows * 32 + i * 8 + x.2) 1 (intEncode 8 true false x.1.1)) w1

/-- Sectors of a range of local space cleared of their marks. -/
def clearSectors (s : State) (key n : Nat) : State :=
  { s with locPoison := s.locPoison.filter (fun q => !decide (key / 32 ≤ q ∧ q < (key + n + 31) / 32)) }

/-- Memory of a range of local space replaced, with its waiters and B reuse seen to (R77, R218). -/
def locRange (s : State) (m : Memory) (key n : Nat) : State := wake (endReuse { s with loc := m } key n) true key n

/-- mpack performed. Bytes of the last sector behind the scales are not stated and become free (log 15). -/
def runMpack (s : State) (m : MatOp) (td ta : TSlot) (et : ElemTy) (p : Nat) (b scaled : Bool) (rows : BitVec 7) : State :=
  let c := s.core
  let src := tileKey c ta
  let dst := tileKey c td
  let n := mpackRows b rows
  if touchesPoison s.locPoison src (mpackSrcBytes et b scaled rows) then
    poisonMat s m (0x8000000000000000 + BitVec.ofNat 64 (c.tiles[ta]).base)
  else
    let used := planeBytes n p
    let w := (List.range n).foldl (fun w i => packRow dst n p i (mpackVal s.loc src et b scaled rows i) w) s.loc
    let tail := (used + 31) / 32 * 32 - used
    let w1 := if tail = 0 then w else w.makeFree (dst + used) tail s.free
    let s1 := clearSectors (locRange { s with free := s.free + 1 } w1 dst (used + tail)) dst used
    s1.updCore (fun c => ((c.dropMat m).usedTile ta s.cycle).fillTile td s.cycle)

/-- The checks of the tiles an operation reads and fills (R353 step 6), sources first. -/
def tileChecks (s : State) (srcs : List TSlot) (dst : Option TSlot) (k : Unit → Out) : Out :=
  match srcs.find? (fun t => s.core.tiles[t].st == .empty || s.core.tiles[t].st == .draining) with
  | some t => tileFault s t
  | none =>
    match dst.filter (fun t => s.core.tiles[t].st != .filling) with
    | some t => tileFault s t
    | none =>
      match srcs.find? (fun t => s.core.tiles[t].st == .filling) with
      | some t => waitTile s t
      | none => k ()

/-- Whether a tile that is filling or ready is shorter than an operation needs (R215, R353). -/
def tooShort (c : Core) (t : TSlot) (n : Nat) : Bool :=
  let x := c.tiles[t]
  (x.st == .filling || x.st == .ready) && decide (x.len < n)

def execMpack (td ta : TSlot) (et : ElemTy) (p : BitVec 5) (b scaled : Bool) (rows : BitVec 7) (s : State) : Out :=
  if tooShort s.core ta (mpackSrcBytes et b scaled rows) || tooShort s.core td (planeBytes (mpackRows b rows) p.toNat) then
    raise s kIllegalOperand
  else if s.core.want = 0 then raise s kGrant
  else
    tileChecks s [ta] (some td) (fun _ =>
      issueMat (newMat s (.mpack td ta et p b scaled rows) 0 0) len3
        (fun c => (c.useTile ta s.cycle).startFill td s.cycle) s)

/-- MPACK COMPLETE. -/
def execMpackComplete (i : Nat) (s : State) : Out :=
  match matReady s.core i with
  | some m =>
    match m.ins with
    | .mpack td ta et p b scaled rows => .next (runMpack s m td ta et p.toNat b scaled rows)
    | _ => .next s
  | none => .next s

/-! ## mmul (R66, R217) -/

/-- Array loads that a B of pb planes takes (R217, R219). -/
def bLoads (pb : Nat) : Nat := (pb + 7) / 8

/-- Whether a pass has still array work to do. -/
def passOpen (m : MatOp) : Bool :=
  match m.ins with
  | .mmul _ _ _ _ pb _ _ => decide (m.loads < bLoads pb.toNat)
  | _ => false

/-- One plane-clock of a pass on g row lanes: up to g rows of one plane; with the last plane its share of this load is done
(R219). -/
def planeClock (m : MatOp) (g : Nat) : MatOp :=
  match m.ins with
  | .mmul _ _ _ pa _ rows _ =>
    let r := rows.toNat
    let w := m.work + min g (r - m.work % r)
    if r * pa.toNat ≤ w then { m with loads := m.loads + 1, work := 0 } else { m with work := w }
  | _ => m

/-- Column j of a B of pb planes, from the loads that the array has applied, the first 8 planes first; its scales come with each
(R18, R217). -/
def bCol (bs : List BPart) (pb j : Nat) : List Nat × List Int :=
  let part (i : Nat) : Nat := ((bs[i]?).map (fun x => x.data.toNat)).getD 0
  ((List.range pb).map (fun q => part (q / 8) / 2 ^ (8 * (q % 8 * 8192 + 32 * j)) % 2 ^ 256),
   (List.range 8).map (fun b => intDecode 8 true (part 0 / 2 ^ (8 * (65536 + 8 * j + b)) % 256)))

/-- The exact t of an element, in units of 2^-256; none where a block is NaN (R66). -/
def passTerm (a b : List Nat × List Int) : Option Int :=
  (List.range 8).foldl (fun acc q =>
    let sa := (a.2[q]?).getD 0
    let sb := (b.2[q]?).getD 0
    match acc with
    | none => none
    | some t =>
      if sa == -128 || sb == -128 then none
      else
        let dot := (List.range 32).foldl (fun (n : Int) k => n + sigOf a.1 (32 * q + k) * sigOf b.1 (32 * q + k)) 0
        some (t + dot * 2 ^ (sa + sb + 256).toNat)) (some 0)

/-- One accumulator element after a pass (R66). -/
def passElem (a b : List Nat × List Int) (z : Nat) : Nat :=
  let zn := fmtF32.decode z
  match passTerm a b with
  | none => fmtF32.nanBits
  | some t =>
    if zn == .nan then fmtF32.nanBits
    else if t == 0 then z
    else fmtF32.encode .rne false 0 (Num.add false zn (.fin (decide (t < 0)) t.natAbs (-256)))

/-- The tagged address of a B. -/
def mmulBAddr (c : Core) (m : MatOp) : MmulB → Word
  | .tile t => 0x8000000000000000 + BitVec.ofNat 64 (c.tiles[t]).base
  | .sp _ => 0x8000002000000000 + BitVec.ofNat 64 (m.bKey % 2 ^ 24)

/-- A pass performed on what the B registers have fed: z written once (R66). -/
def runMmul (s : State) (m : MatOp) (z : ZReg) (ta : TSlot) (b : MmulB) (pa pb rows row0 : Nat) : State :=
  let c := s.core
  let ka := tileKey c ta
  if touchesPoison s.locPoison ka (planeBytes rows pa) then poisonMat s m (0x8000000000000000 + BitVec.ofNat 64 (c.tiles[ta]).base)
  else if m.bs.any (·.bad) then poisonMat s m (mmulBAddr c m b)
  else
    let as_ := (List.range rows).map (planeRow s.loc ka rows pa)
    let bs := (List.range 256).map (bCol m.bs pb)
    let old := c.z[z]
    let new := accOf (fun i j =>
      if row0 ≤ i ∧ i < row0 + rows then passElem ((as_[i - row0]?).getD ([], [])) ((bs[j]?).getD ([], [])) (zGet old i j)
      else zGet old i j)
    s.updCore (fun c =>
      let c1 := ({ c with z := c.z.set z new }.dropMat m).usedTile ta s.cycle
      match b with
      | .tile tb => c1.usedTile tb s.cycle
      | .sp _ => c1)

/-- The scratchpad place of a B (R217): kind 2, aligned, every byte in a scratchpad bank of the virtual device. -/
def spCheck (s : State) (va : Word) (n : Nat) (k : Nat → Out) : Out :=
  match tagged va with
  | .loc l =>
    let pieces := (List.range (n / 0x20000 + 2)).map (fun i => if i * 0x20000 < n then i * 0x20000 else n - 1)
    let res := pieces.map (fun o => localCheck s (l + BitVec.ofNat 40 o))
    if (l.extractLsb' 36 4).toNat != 2 || !alignedTo va 32 || decide (0x1000000 < (l.extractLsb' 0 24).toNat + n)
        || res.any (fun r => r == .bad) then raiseAt s kLocalSpace 0 va
    else if res.any (fun r => r == .stall) then .next (s.waitAs .other)
    else
      match localCheck s l with
      | .ok (.bytes key) => k key
      | _ => raiseAt s kLocalSpace 0 va
  | _ => raiseAt s kLocalSpace 0 va

def execMmul (z : ZReg) (ta : TSlot) (b : MmulB) (pa pb : BitVec 5) (rows : BitVec 7) (row0 : BitVec 6) (s : State) : Out :=
  let i := Instr.mmul z ta b pa pb rows row0
  let n := planeBytes rows.toNat pa.toNat
  let nb := planeBytes 256 pb.toNat
  let shortB := match b with
    | .tile tb => tooShort s.core tb nb
    | .sp _ => false
  if decide (64 < row0.toNat + rows.toNat) || tooShort s.core ta n || shortB then raise s kIllegalOperand
  else if !attachedZ s.core z || s.core.want == 0 then raise s kGrant
  else
    match b with
    | .tile tb =>
      tileChecks s [ta, tb] none (fun _ =>
        issueMat (newMat s i 0 0) len3 (fun c => (c.useTile ta s.cycle).useTile tb s.cycle) s)
    | .sp sb =>
      tileChecks s [ta] none (fun _ =>
        spCheck s (s.sreg sb) nb (fun key => issueMat (newMat s i key 0) len3 (fun c => c.useTile ta s.cycle) s))

/-- MMUL PASS COMPLETE: z is written once the last plane of the last load is done (R217, R219); a queued mzero is performed. -/
def execMmulPassComplete (i : Nat) (s : State) : Out :=
  match matReady s.core i with
  | some m =>
    match m.ins with
    | .mmul z ta b pa pb rows row0 =>
      .next (if passOpen m then s else runMmul s m z ta b pa.toNat pb.toNat rows.toNat row0.toNat)
    | .mzero z => .next (s.updCore (fun c => { c with z := c.z.set z 0 }.dropMat m))
    | _ => .next s
  | none => .next s

/-! ## mdrain (R220) -/

def drainSize : DrainFmt → Nat
  | .f32 => 4
  | _ => 2

/-- One element converted under rne; a NaN gives the format's default NaN (R220). -/
def drainElem (f : DrainFmt) (x : Nat) : Nat :=
  let v := fmtF32.decode x
  match f with
  | .f32 => if v == .nan then fmtF32.nanBits else x
  | .bf16 => fmtBf16.encode .rne false 0 v
  | .f16 => fmtF16.encode .rne false 0 v

def runMdrain (s : State) (m : MatOp) (t : TSlot) (z : ZReg) (f : DrainFmt) (zero : Bool) (rows row0 : Nat) : State :=
  let c := s.core
  let key := tileKey c t
  let sz := drainSize f
  let old := c.z[z]
  let w := (List.range (rows * 256)).foldl (fun w n => w.writeN (key + n * sz) sz (drainElem f (zGet old (row0 + n / 256) (n % 256)))) s.loc
  let s1 := clearSectors (locRange s w key (rows * 256 * sz)) key (rows * 256 * sz)
  s1.updCore (fun c =>
    let c1 := if zero then
        { c with z := c.z.set z (accOf (fun i j => if row0 ≤ i ∧ i < row0 + rows then 0 else zGet old i j)) }
      else c
    (c1.dropMat m).fillTile t s.cycle)

def issueDrain (i : Instr) (t : TSlot) (z : ZReg) (f : DrainFmt) (rows row0 n : Nat) (s : State) : Out :=
  if rows == 0 || decide (64 < row0 + rows) || tooShort s.core t (rows * 256 * drainSize f) then raise s kIllegalOperand
  else if !attachedZ s.core z then raise s kGrant
  else tileChecks s [] (some t) (fun _ => issueMat (newMat s i 0 0) n (fun c => c.startFill t s.cycle) s)

def execMdrain (t : TSlot) (z : ZReg) (s : State) : Out := issueDrain (.mdrain t z) t z .f32 64 0 len1 s
def execMdrainExt (t : TSlot) (z : ZReg) (fmt : DrainFmt) (zero : Bool) (rows : BitVec 7) (row0 : BitVec 6) (s : State) : Out :=
  issueDrain (.mdrainExt t z fmt zero rows row0) t z fmt rows.toNat row0.toNat len3 s

/-- MDRAIN COMPLETE. -/
def execMdrainComplete (i : Nat) (s : State) : Out :=
  match matReady s.core i with
  | some m =>
    match m.ins with
    | .mdrain t z => .next (runMdrain s m t z .f32 false 64 0)
    | .mdrainExt t z fmt zero rows row0 => .next (runMdrain s m t z fmt zero rows.toNat row0.toNat)
    | _ => .next s
  | none => .next s

/-! ## Collectives (R221, R222, R289) -/

def findColl (p : Part) (id : Word) : Option Collective := p.colls.find? (fun c => c.id == id)

/-- coll: the descriptor is read and checked, then joined or left. A join needs the rank entry to name this part and this core
(R289), a leave an id that is registered. DESIGN CHOICE (log 71), as R221 does not say: rounds in flight decide before an id that is
not registered; a leave empties the slot whatever registered id its descriptor names, and an empty slot too; and a descriptor's
nranks is not compared with the registered number. -/
def execColl (d a : SReg) (slot : Fin 8) (leave : Bool) (sc : Scope) (s : State) : Out :=
  let va := s.sreg a
  if va.extractLsb' 48 16 != 0 then raiseAt s kAddressRange 3 va
  else if !alignedTo va 64 then raiseAt s kAlignment 0 va
  else if vmqHolds s va 64 false then .next (s.waitAs .behind)
  else
    match readPieces s (s.check .load) s.cl 1 va with
    | .stall => .next (s.waitAs .other)
    | .fault f x => raiseX s f x
    | .poison leaf x => raiseAt (setPseen (s.recordRead 1 va s) leaf) kData 0 x
    | .ok raw =>
      let nranks := recField raw 8 2
      let rank := recField raw 10 2
      let op := recField raw 12 1
      let result := recWord raw 0x10
      let counter := recWord raw 0x18
      let busy := ((s.core.colls[slot]).map (fun x => decide (0 < x.inFlight))).getD false
      let s1 := s.recordRead 1 va s
      let reg := findColl s.part (recWord raw 0)
      let mine := (reg.bind (fun c => c.ranks[rank]?)).any (fun e => e.1 == s.part.fabric && e.2 == s.core.index.val)
      if decide (nranks < 1 ∨ 4096 < nranks) || decide (nranks ≤ rank) || !(op == 3 || op == 9 || op == 10)
          || recField raw 13 3 != 0 || recField raw 0x20 32 != 0 || result.toNat % 128 != 0
          || result.extractLsb' 48 16 != 0 then raise s1 kIllegalOperand
      else if busy then .next (s1.retire d 1 len3)
      else if mine || (leave && reg.isSome) then
        let x : CollSlot := ⟨recWord raw 0, nranks, rank, op, result, counter, sc, 0, 0, false⟩
        .next ((s1.updCore (fun c => { c with colls := c.colls.set slot (if leave then none else some x) })).retire d 0 len3)
      else .next (s1.retire d 2 len3)

/-- mdrainf (R222): the k-th of a slot is round k. -/
def execMdrainf (z : ZReg) (slot : Fin 8) (zero : Bool) (s : State) : Out :=
  match s.core.colls[slot] with
  | none => raise s kIllegalOperand
  | some x =>
    if x.refused then raise s kIllegalOperand
    else if !attachedZ s.core z then raise s kGrant
    else
      issueMat (newMat s (.mdrainf z slot zero) 0 (x.round + 1)) len3
        (fun c => { c with colls := c.colls.set slot (some { x with round := x.round + 1, inFlight := x.inFlight + 1 }) }) s

def collTag (op : Nat) : UTag := if op = 9 then .minF32 else if op = 10 then .maxF32 else .addF32

/-- The fixed tree over ranks, padded with the identity (R222). -/
def collTree (t : UTag) (leaf : Nat → Nat) : Nat → Nat → Nat
  | 0, i => leaf i
  | l + 1, i => utagOp t (collTree t leaf l (2 * i)) (collTree t leaf l (2 * i + 1))

/-- Cores of this part that joined a collective: core, slot. -/
def joined (s : State) (id : Nat) : List (Fin 1024 × CollSlot × Fin 8) :=
  s.cores.flatMap (fun c => (List.finRange 8).filterMap (fun j => (c.colls[j]).bind (fun x =>
    if x.id.toNat == id then some (c.index, x, j) else none)))

/-- The add to a rank's counter, an aligned word that is not poisoned (R77); nothing where it cannot be made (log 21). -/
def rankAdd (s : State) (x : RankDest) : State :=
  if x.counter == 0 || !alignedTo x.counter 8 then s
  else
    match tagged x.counter with
    | .loc l =>
      match localCheck { s with core := { s.getCore x.core with vdid := x.vdid } } l with
      | .ok (.bytes key) => if touchesPoison s.locPoison key 8 then s else locPut s key 8 ((s.loc.readN key 8 + 1) % 2 ^ 64)
      | _ => s
    | .gen g =>
      match findVd s.part x.vdid with
      | none => s
      | some d =>
        match commandAdd s d (groupWork s.part (s.getCore x.core).cgid) g 1 with
        | .ok s1 | .bad s1 => s1
        | .stall => s
    | .badLoc => s

/-- A rank's contribution is accepted: the counter of a rank without a result advances (R222). -/
def acceptContribution (s : State) (k : Contribution) : State :=
  let s1 := { s with part := { s.part with contribs := s.part.contribs ++ [k] } }
  match k.dest with
  | some x => if x.result == 0 then rankAdd s1 x else s1
  | none => s1

def destOf (c : Core) (x : CollSlot) : RankDest := ⟨c.index, c.vdid, x.result, x.counter⟩

/-- The pending mdrainf of the active core that a contribution comes from. -/
def ownContribution (c : Core) (id round rank : Nat) : Option (Nat × Fin 8) :=
  ((c.mats.zipIdx).filterMap (fun p => match p.1.ins with
    | .mdrainf _ slot _ =>
      (c.colls[slot]).bind (fun x => if x.id.toNat == id && x.rank == rank && p.1.round == round then some (p.2, slot) else none)
    | _ => none)).head?

/-- The Crazan ports that a virtual device may send on and that are up (R272, R290, R377). -/
def sendPorts (p : Part) (v : BitVec 6) : List Nat :=
  match findVd p v with
  | none => []
  | some d => (List.range 16).filter (fun k => d.fports.getLsbD k && !p.portsDown.getLsbD k)

/-- Whether a collective has every rank on this part: then no contribution leaves it (R290; log 59). -/
def collLocal (p : Part) (c : Collective) : Bool := c.ranks.all (fun e => e.1 == p.fabric)

/-- The flits of one contribution, a header and 1,024 of data, which go to the system die, dealt out to the ports and charged there to the issuing virtual
device (R267, R290; log 59). -/
def chargeFlits (p : Part) (v : BitVec 6) (w : Work) (ports : List Nat) : Part :=
  let n := ports.length
  ports.zipIdx.foldl (fun p x => charge p 4 x.1 v w (1025 / n + if x.2 < 1025 % n then 1 else 0)) p

/-- CRAZAN CONTRIBUTION: the active core's own pending contribution is sent, za read and with `.z` zeroed; else one arrives
from elsewhere (R222, R290). Without a port to send on the contribution waits. -/
def execCrazanContribution (id round rank : Nat) (data : Sys2Proof.Acc) (s : State) : Out :=
  match ownContribution s.core id round rank with
  | some (i, slot) =>
    match matReady s.core i, s.core.colls[slot] with
    | some m, some x =>
      let ports := sendPorts s.part s.core.vdid
      let inside := ((findColl s.part x.id).map (collLocal s.part)).getD false
      match m.ins with
      | .mdrainf z _ zero =>
        let k : Contribution := ⟨x.id, round, rank, x.op, s.core.z[z], some (destOf s.core x)⟩
        let s1 := s.updCore (fun c =>
          let c1 := if zero then { c with z := c.z.set z 0 } else c
          c1.dropMat m)
        let w := groupWork s.part s.core.cgid
        let s2 := mapPart s1 (fun p =>
          let p1 := chargePath p s.core.vdid w (some s.cl.val) none (64 * 1025)
          if inside then p1 else chargeFlits p1 s.core.vdid w ports)
        .next (if !inside && ports.isEmpty then s else acceptContribution s2 k)
      | _ => .next s
    | _, _ => .next s
  | none =>
    if (findColl s.part (BitVec.ofNat 64 id)).isNone
        || s.part.contribs.any (fun k => k.id.toNat == id && k.round == round && k.rank == rank) then .next s
    else .next (acceptContribution s ⟨BitVec.ofNat 64 id, round, rank, 3, data, none⟩)

/-- The reduced tile written to a rank's result, sector by sector; a sector that cannot be written is left (log 21). -/
def writeResult (s : State) (d : Vd) (w : Work) (va : Word) (z : Sys2Proof.Acc) (poison : Bool) : State :=
  let cl := vdCluster d
  (List.range 2048).foldl (fun s k =>
    let a := va + BitVec.ofNat 64 (32 * k)
    match vdCheck s d .store a with
    | .ok x =>
      let s1 := putHome s cl d.vdid x 32 (z.toNat / 2 ^ (256 * k) % 2 ^ 256) w
      if poison then setPoison s1 x.pa else s1
    | _ => s) s

/-- A rank's result and its counter (R222). -/
def serveRank (z : Sys2Proof.Acc) (poison : Bool) (s : State) (x : RankDest) : State :=
  if x.result == 0 then s
  else
    match findVd s.part x.vdid with
    | some d => rankAdd (writeResult s d (groupWork s.part (s.getCore x.core).cgid) x.result z poison) x
    | none => s

/-- A round of a collective is over on every core that has it joined: one round less in flight; after an abort its
operation is gone and later rounds are refused (R376). -/
def endRound (id round : Nat) (abort : Bool) (c : Core) : Core :=
  let own (j : Fin 8) (x : CollSlot) : Bool := c.mats.any (fun m => match m.ins with
    | .mdrainf _ slot _ => slot == j && m.round == round && x.id.toNat == id
    | _ => false)
  let mats := if !abort then c.mats
    else c.mats.filter (fun m => match m.ins with
      | .mdrainf _ slot _ => !(((c.colls[slot]).map (fun x => x.id.toNat == id)).getD false && m.round == round)
      | _ => true)
  { c with mats := mats, colls := Vector.ofFn (fun j : Fin 8 => (c.colls[j]).map (fun x =>
      if x.id.toNat == id && (decide (round ≤ x.round) || abort) then
        { x with inFlight := if decide (round ≤ x.round) && (abort || !own j x) then x.inFlight - 1 else x.inFlight
                 refused := x.refused || abort }
      else x)) }

/-- COLLECTIVE ROUND COMPLETE (R222): the contribution of every rank of the registered number is there. Where ranks have joined with
different operators, that of the first joined core decides (DESIGN CHOICE; log 71). -/
def execCollectiveRoundComplete (id round : Nat) (s : State) : Out :=
  match findColl s.part (BitVec.ofNat 64 id) with
  | none => .next s
  | some c =>
    let ks := s.part.contribs.filter (fun k => k.id.toNat == id && k.round == round)
    if !(List.range c.nranks).all (fun r => ks.any (fun k => k.rank == r)) then .next s
    else
      let ops := (joined s id).map (fun x => x.2.1.op)
      let t := collTag (ops.headD ((ks.map (·.op)).headD 3))
      let depth := treeDepth c.nranks
      let leaf (i j r : Nat) : Nat := match ks.find? (fun k => k.rank == r) with
        | some k => zGet k.data i j
        | none => utagIdentity t
      let z := accOf (fun i j => collTree t (leaf i j) depth 0)
      let s1 := { s with part := { s.part with contribs := s.part.contribs.filter (fun k => !(k.id.toNat == id && k.round == round)) } }
      .next (((ks.filterMap (·.dest)).foldl (serveRank z false) s1).mapCores (endRound id round false))

/-- The ranks of this part that have a collective joined. -/
def joinedRanks (s : State) (id : Nat) : List RankDest :=
  s.cores.flatMap (fun c => (List.finRange 8).filterMap (fun j => (c.colls[j]).bind (fun x =>
    if x.id.toNat == id && !x.refused then some (destOf c x) else none)))

/-- COLLECTIVE ABORT (R376): every rank's result is poisoned, its counter advances, and its slot refuses later rounds; a rank that
has contributed, and one of this part that has not. -/
def execCollectiveAbort (id round : Nat) (s : State) : Out :=
  let ks := s.part.contribs.filter (fun k => k.id.toNat == id && k.round == round)
  let s1 := { s with part := { s.part with contribs := s.part.contribs.filter (fun k => !(k.id.toNat == id && k.round == round)) } }
  let s2 := (ks.filterMap (·.dest)).foldl (serveRank 0 true) s1
  let s3 := ((joinedRanks s id).filter (fun x => !ks.any (fun k => k.dest == some x))).foldl (fun t x => if x.result == 0 then rankAdd t x else serveRank 0 true t x) s2
  .next (s3.mapCores (endRound id round true))

/-! ## The matrix arbiter (R218, R219, R265) -/

/-- The load of its B that a pending mmul needs next. -/
def bOf (c : Core) (m : MatOp) : Option BLoad :=
  let me := (c.index.val, m.seq)
  match m.ins with
  | .mmul _ _ (.tile t) _ pb _ _ => some ⟨false, c.index.val, (c.tiles[t]).base, pb.toNat, m.loads, true, false, me⟩
  | .mmul _ _ (.sp _) _ pb _ _ => some ⟨true, 0, m.bKey % 2 ^ 24, pb.toNat, m.loads, true, false, me⟩
  | _ => none

/-- The same load of the same B, as reuse compares them: address, planes, and tile or scratchpad (R218). -/
def BLoad.same (x y : BLoad) : Bool :=
  x.scratch == y.scratch && x.core == y.core && x.addr == y.addr && x.planes == y.planes && x.part == y.part

/-- Whether the array has begun the load that a pass is at. -/
def MatOp.onLoad (m : MatOp) : Bool := m.bs.length == m.loads + 1

/-- Whether a pass that needs b may be fed from what a B register holds, y: it was loaded for the pass, the pass has begun on it, or,
where the pass shares it, its source has not been written since (R218). -/
def mayFeed (m : MatOp) (b y : BLoad) (shares : Bool) : Bool :=
  y.same b && (y.forPass == b.forPass || m.onLoad || (shares && !y.stale))

/-- The pending passes of a core, in program order. -/
def pendPasses (c : Core) : List MatOp := c.mats.filter (fun m => passOpen m && m.st == .moving)

/-- Whether the arbiter may serve a pass now: nothing before it works on its z. -/
def passReady (c : Core) (m : MatOp) : Bool := (List.range c.mats.length).any (fun i => matReady c i == some m)

/-- The passes of a core that the arbiter may serve, with the loads they need. -/
def openPasses (c : Core) : List (MatOp × BLoad) :=
  (pendPasses c).filterMap (fun m => if passReady c m then (bOf c m).map (fun b => (m, b)) else none)

/-- The place of an accumulator tile in an order list: its first place, or behind all (R248). -/
def mordRank (codes : BitVec 8) (z : ZReg) : Nat :=
  ((List.range 4).find? (fun i => (codes.extractLsb' (2 * i) 2).toNat == z.val)).getD 4

/-- The place of a pass in its core's order list; every pass is in one place without a list. -/
def passRank (c : Core) (m : MatOp) : Nat :=
  match m.ins, c.adv.mord with
  | .mmul z _ _ _ _ _ _, some (codes, _, _) => mordRank codes z
  | _, _ => 0

def MatOp.begun (m : MatOp) : Bool := !m.bs.isEmpty

/-- The mmul of a core that the arbiter serves next: one that it has begun, else the first in the order list and then in program
order; a later one does not start before it (R218, R248). A core that has yielded starts none (R44). -/
def firstPass (c : Core) : Option (MatOp × BLoad) :=
  let l := pendPasses c
  let first := (l.find? MatOp.begun).or (if c.run == .yielded then none else l.foldl (fun b x => match b with
    | none => some x
    | some y => if passRank c x < passRank c y then some x else some y) none)
  (first.filter (passReady c)).bind (fun m => (bOf c m).map (fun b => (m, b)))

/-- The pass of another core that is coalesced with one on a scratchpad B: its next one, or, where its order list asks for it
by `.co`, any that may start on that B (R111, R218, R248). -/
def matePass (c : Core) (b : BLoad) : Option (MatOp × BLoad) :=
  if c.adv.mord.any (fun o => o.2.1) && c.run != .yielded then (openPasses c).find? (fun x => x.2.same b)
  else (firstPass c).filter (fun x => x.2.same b)

/-- The age of a request: passes of a core that start out of program order start at the times of those they pass, so that the order
between virtual devices stays as it was (R111). -/
def reqTime (c : Core) (m : MatOp) : Nat :=
  if m.begun then m.time else (((pendPasses c).find? (fun x => !x.begun)).map (·.time)).getD m.time

/-- Whether a request goes before another: class 3 before class 4; then, in class 4, the higher priority; then the older, ties in
ascending VDID (R264). -/
def reqBefore (s : State) (inst : Nat) (x y : Core × MatOp × BLoad) : Bool :=
  let cx := classThree s.part 0 inst x.1.vdid
  let cy := classThree s.part 0 inst y.1.vdid
  let prio (c : Core) : Nat := ((findGroup s.part c.cgid).map (fun g => g.lr.prio.val)).getD 0
  let tx := reqTime x.1 x.2.1
  let ty := reqTime y.1 y.2.1
  if cx != cy then cx
  else if !cx && prio x.1 != prio y.1 then decide (prio y.1 < prio x.1)
  else if tx != ty then decide (tx < ty)
  else decide (x.1.vdid.toNat < y.1.vdid.toNat)

def bestReq (s : State) (inst : Nat) (l : List (Core × MatOp × BLoad)) : Option (Core × MatOp × BLoad) :=
  l.foldl (fun b x => match b with
    | none => some x
    | some y => if reqBefore s inst x y then some x else some y) none

/-- Whether a B register holds, or is loading, what a request needs; a B of more than 8 planes is not reused (R218). -/
def bHeld (x : Cluster) (r : Core × MatOp × BLoad) (loaded : Bool) : Bool :=
  x.breg.toList.any (fun y => y.any (fun y => (y.loaded || !loaded) && mayFeed r.2.1 r.2.2 y (decide (y.planes ≤ 8))))

/-- The grants of one plane-clock: core, pass and row lanes. -/
abbrev LaneGrant := Fin 1024 × Nat × Nat

/-- A pass starts: it takes the time of the oldest that has not, and those that it passes the times behind (R111). -/
def startTimes (c : Core) (m : MatOp) : List MatOp :=
  let l := (pendPasses c).filter (fun x => !x.begun)
  let slots := (m :: l.filter (fun x => x.seq != m.seq)).zip (l.map (·.time))
  c.mats.map (fun x => match slots.find? (fun y => y.1.seq == x.seq) with
    | some y => { x with time := y.2 }
    | none => x)

/-- The row-lane demand that a pass runs under: the one it began with, or, before, the one in force; one that has been lowered to
nothing leaves an issued pass with that of its issue (R211; log 68). -/
def passWant (c : Core) (m : MatOp) : Nat := if m.begun || c.want == 0 then m.want else c.want

/-- A pass that is given lanes on what a B register feeds: the start of the pass, or of a load, takes it over (R18, R219). -/
def feedPass (c : Core) (m : MatOp) (b : BPart) (g : Nat) : MatOp :=
  if g = 0 then m
  else planeClock { m with want := passWant c m, bs := if m.onLoad then m.bs else m.bs ++ [b] } g

/-- GRANT.lanes of a cluster's cores set, and each granted pass one plane-clock further on what the array's register feeds. -/
def giveLanes (s : State) (cl : Nat) (b : BPart) (l : List LaneGrant) : State :=
  s.mapCores (fun c =>
    if c.index.val / 8 != cl then c
    else
      match l.find? (fun g => g.1 == c.index) with
      | none => { c with lanes := 0 }
      | some g =>
        let start := c.mats.find? (fun m => m.seq == g.2.1 && !m.begun && g.2.2 != 0)
        let mats := match start with
          | some m => startTimes c m
          | none => c.mats
        { c with lanes := g.2.2, mats := mats.map (fun m => if m.seq == g.2.1 then feedPass c m b g.2.2 else m) })

/-- The requests of a cluster: the first pass of each core whose engines run. -/
def passRequests (s : State) (cl : Nat) : List (Core × MatOp × BLoad) :=
  (s.cores.filter (fun c => c.index.val / 8 == cl && c.run != .off)).filterMap (fun c => (firstPass c).map (fun m => (c, m)))

/-- Every pending pass of a cluster, each core's in the order in which they start. -/
def allPasses (s : State) (cl : Nat) : List (Core × MatOp × BLoad) :=
  (s.cores.filter (fun c => c.index.val / 8 == cl && c.run != .off)).flatMap (fun c =>
    let l := pendPasses c
    ((List.range 5).flatMap (fun k => l.filter (fun m => passRank c m == k))).filterMap (fun m => (bOf c m).map (fun b => (c, m, b))))

/-- The register that the next load goes into: an empty one, else the one that does not feed the array. -/
def idleReg (x : Cluster) : Fin 2 := if x.breg[(0 : Fin 2)].isNone then 0 else if x.breg[(1 : Fin 2)].isNone then 1 else 1 - x.arrayB

/-- The register that feeds a request. -/
def feedReg (x : Cluster) (r : Core × MatOp × BLoad) : Fin 2 :=
  if x.breg[(0 : Fin 2)].any (fun y => y.loaded && mayFeed r.2.1 r.2.2 y (decide (y.planes ≤ 8))) then 0 else 1

/-- The load that begins next, if any: the highest request's B where neither register holds it; the next planes of its B while the
array works on those before them; else the B of the next pass that another B has to be loaded for (R19, R219, R265). -/
def nextLoad (s : State) (cl : Fin 128) : Option BLoad :=
  let x := getCl s cl
  match bestReq s cl.val (passRequests s cl.val) with
  | none => none
  | some r =>
    let next : Core × MatOp × BLoad := (r.1, { r.2.1 with loads := r.2.1.loads + 1 }, { r.2.2 with part := r.2.2.part + 1 })
    if !bHeld x r false then some r.2.2
    else if next.2.2.part < bLoads next.2.2.planes then (if r.2.1.onLoad && !bHeld x next false then some next.2.2 else none)
    else
      let y := x.breg[feedReg x r]
      let other (q : Core × MatOp × BLoad) : Bool := !(q.2.2.forPass == r.2.2.forPass
        || y.any (fun y => mayFeed q.2.1 q.2.2 y (decide (y.planes ≤ 8))))
      ((bestReq s cl.val ((allPasses s cl.val).filter other)).filter (fun q => !bHeld x q false)).map (fun q => q.2.2)

/-- A load begins in the idle register; it waits for one that goes on there. -/
def startLoad (s : State) (cl : Fin 128) : State :=
  let j := idleReg (getCl s cl)
  if ((getCl s cl).breg[j]).any (fun y => !y.loaded) then s
  else
    match nextLoad s cl with
    | some b => updCl s cl (fun c => { c with breg := c.breg.set j (some { b with loaded := false }) })
    | none => s

/-- The lanes of one plane-clock on the chosen request's B, which a register holds as y: its own, then those of coalesced passes,
within the tokens of the bucket or of the pool (R218, R265). Where lanes do not suffice for every coalesced pass, the active core's
comes first, then those of the other cores in the order in which the state lists them (DESIGN CHOICE: R265 names no order; log 68). -/
def shareLanes (s : State) (cl : Nat) (r : Core × MatOp × BLoad) (y : BLoad) (lim : Nat) : List LaneGrant :=
  let n := min (passWant r.1 r.2.1) (min lim 16)
  let mates := if !r.2.2.scratch then [] else
    (s.cores.filter (fun c => c.index.val / 8 == cl && c.run != .off && c.index != r.1.index && c.vdid == r.1.vdid)).filterMap
      (fun c => ((matePass c r.2.2).filter (fun m => mayFeed m.1 m.2 y true)).map (fun m => (c, m.1)))
  (mates.foldl (fun (p : Nat × List LaneGrant) q =>
    let k := min (passWant q.1 q.2) p.1
    (p.1 - k, p.2 ++ [(q.1.index, q.2.seq, k)])) (min (16 - n) (lim - n), [(r.1.index, r.2.1.seq, n)])).2

/-- The grants of a cluster's next plane-clock: the highest request whose B is loaded, with its register and what it holds, and the
lanes of each pass; whether they are drawn from its own bucket (R265). -/
def laneGrants (s : State) (cl : Fin 128) : Option (Core × Fin 2 × List LaneGrant × Bool) :=
  let x := getCl s cl
  (bestReq s cl.val ((passRequests s cl.val).filter (fun r => bHeld x r true))).bind (fun r =>
    let j := feedReg x r
    (x.breg[j]).map (fun y =>
      let v := r.1.vdid
      let own := classThree s.part 0 cl.val v
      (r.1, j, shareLanes s cl.val r y (if own then wholeTokens (levelOf s.part 0 cl.val v) else poolOf s.part 0 cl.val / 1024), own)))

/-- MATRIX GRANT: at a plane boundary the arbiter chooses the highest request whose B is loaded, gives it row lanes for one
plane-clock, gives the rest to coalesced passes on the same B, charges each lane, and starts a load (R219, R265). The array has one
plane-clock a clk. -/
def execMatrixGrant (cl : Nat) (s : State) : Out :=
  if h : cl < 128 then
    let k : Fin 128 := ⟨cl, h⟩
    let x := getCl s k
    let now := (s.part.dies[clusterDie k]).edges
    match laneGrants s k with
    | none => .next (startLoad (giveLanes s cl ⟨0, false⟩ []) k)
    | some (c, j, l, own) =>
      if now ≤ x.planeAt then .next (startLoad s k)
      else
        let s1 := mapPart (giveLanes s cl x.bdata[j] l) (fun p => chargeUnits p 0 cl c.vdid own ((l.map (fun g => g.2.2)).foldl (· + ·) 0))
        .next (startLoad (updCl s1 k (fun c => { c with arrayB := j, planeAt := now })) k)
  else .next s

/-- What a load brings into a B register: its planes and the scales behind them, with the poison of both (R18, R215, R371). -/
def loadPart (s : State) (cl : Nat) (b : BLoad) : BPart :=
  let base := if b.scratch then scratchKey cl b.addr else coreKey b.core b.addr
  let n := 8192 * min 8 (b.planes - 8 * b.part)
  let planes := base + 65536 * b.part
  let scales := base + 8192 * b.planes
  ⟨BitVec.ofNat 540672 (s.loc.readN planes n + s.loc.readN scales 2048 * 2 ^ (8 * 65536)),
   touchesPoison s.locPoison planes n || touchesPoison s.locPoison scales 2048⟩

/-- B LOAD COMPLETE (R18, R219): the register holds the planes and scales of its source. -/
def execBLoadComplete (cl : Nat) (second : Bool) (s : State) : Out :=
  if h : cl < 128 then
    let j : Fin 2 := if second then 1 else 0
    .next (updCl s ⟨cl, h⟩ (fun c => match c.breg[j] with
      | some b => { c with breg := c.breg.set j (some { b with loaded := true }), bdata := c.bdata.set j (loadPart s cl b) }
      | none => c))
  else .next s

end Sys2Proof.Machine
end

