-- ==== Sys2Proof/Machine/Flags.lean ====
section
/-! DEFINITION. The system registers as words: what each holds (R10, R41, R56, R73, R105, R118, R119, R143, R207, R212, R274
to R277, R300 to R303, R311, R316, R344, R408, R409), which fields a view reads, and which it writes. No instruction of
this machine sets condition flags; the status of engines (R157) is in Control. -/

namespace Sys2Proof.Machine

open Sys2Proof

/-! ## Images -/

def liveLanes (lmap : BitVec 32) : Nat := ((List.range 32).filter (fun i => lmap.getLsbD i)).length

def advStCode : AdvSt → Nat
  | .off => 0
  | .loading => 1
  | .running => 2
  | .awaiting => 3
  | .seeking => 4
  | .stopped => 5

/-- ADVST (R118). -/
def advstImage (a : Advice) : Word :=
  BitVec.ofNat 64 (a.pc.toNat + advStCode a.st * 2 ^ 16 + a.cause.toNat * 2 ^ 19 + a.cur.toNat * 2 ^ 48)

/-- ADVCNT (R119). -/
def advcntImage (a : AdvCnt) : Word := a.drop ++ a.realign ++ a.lag ++ a.miss

def viewCode : View → Nat
  | .u => 0
  | .s => 1
  | .m => 2

/-- PGHO (R105). -/
def pghoImage (h : Handover) : Word :=
  BitVec.ofNat 64 (h.status.toNat + h.target.toNat * 2 ^ 8 + h.party.toNat * 2 ^ 12 + h.frame.toNat * 2 ^ 24)

/-- FAULTQ and STAMPQ (R316, R344). -/
def recqImage (q : RecQ) : Word := BitVec.ofNat 64 (q.tail.toNat + q.head.toNat * 2 ^ 16 + q.drop.toNat * 2 ^ 48)

def isMatPending (i : Instr) : Bool :=
  match i with
  | .mzero _ => false
  | _ => true

/-- INFLIGHT word 0x200 (R311). -/
def inflightImage (c : Core) : Word :=
  let pend (z : ZReg) : Nat := if c.mats.any (fun m => matNames m.ins == some z) then 1 else 0
  let bound (q : Fin 4) : Nat := if (c.streams[q]).isSome then 1 else 0
  BitVec.ofNat 64 (c.copies.length + viqCount c * 2 ^ 9 + c.vmq.length * 2 ^ 16
    + (c.mats.filter (fun m => isMatPending m.ins)).length * 2 ^ 21 + c.defer.length * 2 ^ 28
    + (bound 0 + 2 * bound 1 + 4 * bound 2 + 8 * bound 3) * 2 ^ 41
    + (pend 0 + 2 * pend 1 + 4 * pend 2 + 8 * pend 3) * 2 ^ 45)

/-- INFLIGHT words 0x202 to 0x205: the stream of a queue (R311). -/
def streamImage (c : Core) (q : Fin 4) : Word :=
  match c.streams[q] with
  | none => 0
  | some x => BitVec.ofNat 64 (x.next % 2 ^ 32 + (x.count - x.next) % 2 ^ 32 * 2 ^ 32)

/-- INFLIGHT word 0x206: entries of q0 to q7. -/
def queueImage (c : Core) : Word :=
  let l := (List.finRange 4).map (fun q => (c.vq[q]).length) ++ [c.q4.length, c.q5.length, c.q6.length, c.q7.length]
  BitVec.ofNat 64 (l.foldr (fun n x => n % 256 + 256 * x) 0)

/-- INFLIGHT words 0x208 and 0x209: where the chosen copy stands. -/
def chosenCopy (c : Core) : Word × Word :=
  match c.copies[c.inflSel.toNat]? with
  | some x => resumePoint x
  | none => (0, 0)

/-- What a word shows that follows other state: what firmware put there, while that state is as it was then (R10; log 61). -/
def shown (c : Core) (n : Nat) (v : Word) : Word :=
  match c.put.find? (fun x => x.1 == n) with
  | some x => if x.2.1 == v then x.2.2 else v
  | none => v

/-- LMAP (R300), and its live field. -/
def lmapImage (c : Core) : Word := shown c 0x004 (BitVec.ofNat 64 (c.lmap.toNat + liveLanes c.lmap * 2 ^ 32))
def lmapLive (c : Core) : Nat := ((lmapImage c).extractLsb' 32 6).toNat

/-- An INFLIGHT word that follows the engines (R311). -/
def inflightWord (c : Core) (n : Nat) : Word :=
  if n = 0x200 then inflightImage c
  else if n = 0x206 then queueImage c
  else if n = 0x208 then (chosenCopy c).1
  else (chosenCopy c).2

/-- The value of a system register, all of its fields, by number (R143). -/
def sysImage (s : State) (n : Nat) : Word :=
  let c := s.core
  let d := s.part.dies[s.die]
  if n = 0x000 then BitVec.ofNat 64 c.vl
  else if n = 0x001 then 1024
  else if n = 0x002 then c.rm.zeroExtend 64
  else if n = 0x003 then BitVec.ofNat 64 (c.alcCur % 64 + c.alcCeil % 64 * 2 ^ 8)
  else if n = 0x004 then lmapImage c
  else if n = 0x005 then grantImage c
  else if n = 0x006 then c.stripBase
  else if n = 0x007 then c.stripNext
  else if n = 0x008 then c.seed
  else if n = 0x00A then s.cycle
  else if n = 0x00B then s.part.tstamp
  else if n = 0x00C then c.cgid.zeroExtend 64
  else if n = 0x00D then BitVec.ofNat 64 (c.vdid.toNat + c.part.toNat * 2 ^ 8)
  else if n = 0x00E then BitVec.ofNat 64 (c.capbase.toNat * 2 ^ 12)
  else if n = 0x00F then BitVec.ofNat 64 (viewCode c.view)
  else if n = 0x010 then c.xmask.zeroExtend 64
  else if n = 0x011 then c.freeze.zeroExtend 64
  else if n = 0x012 then c.resync
  else if n = 0x014 then (s.vd.map (fun v => recqImage v.fq)).getD 0
  else if n = 0x015 then (s.vd.map (fun v => recqImage v.sq)).getD 0
  else if n = 0x018 then advstImage c.adv
  else if n = 0x019 then advcntImage c.advCnt
  else if n = 0x020 then (getCl s s.cl).cbmode
  else if n = 0x021 then (getCl s s.cl).refused ++ (getCl s s.cl).busy
  else if n = 0x030 then BitVec.ofNat 64 d.droopth
  else if n = 0x031 then BitVec.ofNat 64 d.stretch
  else if n = 0x032 then BitVec.ofNat 64 d.halve
  else if 0x040 ≤ n ∧ n ≤ 0x04F then c.pmask.extractLsb' (64 * (n - 0x040)) 64
  else if n = 0x100 then pghoImage s.coh.hand
  else if n = 0x200 then shown c n (inflightWord c n)
  else if n = 0x201 then c.waddr
  else if 0x202 ≤ n ∧ n ≤ 0x205 then streamImage c (Fin.ofNat 4 (n - 0x202))
  else if n = 0x206 then shown c n (inflightWord c n)
  else if n = 0x207 then c.inflSel.zeroExtend 64
  else if n = 0x208 then shown c n (inflightWord c n)
  else if n = 0x209 then shown c n (inflightWord c n)
  else 0

/-! ## Views (R10, R164) -/

/-- Whether a register's map marks a field "—" in a view: PGHO in the U view. -/
def sysBarred (v : View) (n : Nat) : Bool := v == .u && n == 0x100

/-- Registers that read zero in the U view. -/
def sysHidden (n : Nat) : Bool :=
  n == 0x011 || n == 0x014 || n == 0x015 || n == 0x018 || n == 0x019 || decide (0x200 ≤ n ∧ n ≤ 0x2FF)

/-- What sysrd reads (R164). -/
def sysRead (s : State) (n : Nat) : Word :=
  if s.core.view == .u && sysHidden n then 0 else sysImage s n

/-- Registers that the U view writes. -/
def sysWritesU (n : Nat) : Bool := n == 0x002 || n == 0x008 || n == 0x020

/-- Registers with a field that the S view writes. -/
def sysWritesS (n : Nat) : Bool :=
  sysWritesU n || n == 0x000 || n == 0x003 || n == 0x006 || n == 0x007 || n == 0x00E || n == 0x010 || n == 0x011 || n == 0x012
    || n == 0x014 || n == 0x015 || n == 0x018 || n == 0x019 || n == 0x030 || n == 0x031 || n == 0x032
    || decide (0x040 ≤ n ∧ n ≤ 0x04F) || n == 0x100 || n == 0x207

end Sys2Proof.Machine
end

