-- ==== Sys2Proof/Machine/SysRegs.lean ====
section
/-! DEFINITION. sysrd and syswr (R164), writes with an effect of their own: CBMODE (R73, R74), ADVST (R118), PGHO and the
handover (R105, R106, R380); pgref and tlbinv (R166, R283, R284, R286). -/

namespace Sys2Proof.Machine

open Sys2Proof

/-! ## CBMODE (R73, R74) -/

def modeOf (v : Word) (b : Nat) : Nat := (v.extractLsb' (2 * b) 2).toNat

/-- The mode field of a bank replaced. -/
def setMode (v : Word) (b m : Nat) : Word :=
  (v &&& ~~~(BitVec.ofNat 64 (3 * 2 ^ (2 * b)))) ||| BitVec.ofNat 64 (m % 4 * 2 ^ (2 * b))

/-- Banks that a write from a view may change: in the U view those of the virtual device. -/
def mayMode (s : State) (w : View) (b : Nat) : Bool :=
  w != .u || ((s.vd.map (fun d => d.banks.getLsbD b)).getD false)

/-- Whether a core, by its AP or its vector memory queue, stands blocked on a FIFO bank of a cluster. -/
def fifoBlocked (s : State) (cl : Fin 128) (b : Nat) : Bool := (getCl s cl).fifoWait.any (fun w => w.bank.val == b)

/-- The mode of a bank once every change accepted so far and those of a list are done. -/
def finalMode (x : Cluster) (v : Word) (ok : List Nat) (b : Nat) : Nat :=
  if ok.contains b then modeOf v b else if x.busy.getLsbD b then modeOf x.asked b else modeOf x.cbmode b

/-- Banks in cache mode once they are done. -/
def finalCaches (x : Cluster) (v : Word) (ok : List Nat) : Nat := ((List.range 32).filter (fun b => finalMode x v ok b == 0)).length

/-- The changes, in ascending order, without those of cache ways that would leave fewer than four, as others were refused; n banks
would be left (R20; log 60). -/
def keepFour (x : Cluster) : List Nat → Nat → List Nat
  | [], _ => []
  | b :: t, n => if n < 4 && modeOf x.cbmode b == 0 then keepFour x t (n + 1) else b :: keepFour x t n

/-- A write of CBMODE from a view: checked as a whole, then bank by bank; accepted banks are busy with the mode asked for
(R74). -/
def writeCbmode (s : State) (w : View) (v : Word) : State :=
  let cl := s.cl
  let x := getCl s cl
  let want := (List.range 32).filter (fun b => mayMode s w b && modeOf v b != modeOf x.cbmode b)
  let bits (l : List Nat) : BitVec 32 := l.foldl (fun m b => m ||| BitVec.twoPow 32 b) 0
  if finalCaches x v want < 4 then setCl s cl { x with refused := bits want }
  else
    let no (b : Nat) : Bool := modeOf v b == 3 || x.busy.getLsbD b
      || (modeOf x.cbmode b == 2 && (decide (0 < (x.fifo[Fin.ofNat 32 b]).length) || fifoBlocked s cl b))
    let free := want.filter (fun b => !no b)
    let ok := keepFour x free (finalCaches x v free)
    setCl s cl { x with refused := bits (want.filter (fun b => !ok.contains b)), busy := x.busy ||| bits ok, askedBy := s.core.vdid
                        asked := ok.foldl (fun m b => setMode m b (modeOf v b)) x.asked }

/-- CBMODE WRITE. -/
def execCbmodeWrite (v : Word) (s : State) : Out := .next (writeCbmode s s.core.view v)

/-- The line of a set that a bank's way gives up, where the set holds more lines than ways remain: the one that a victim's choice
finds (DESIGN CHOICE: R74 does not say which line stands in the way; log 51). A merge is charged to the virtual device that asked
for the change (R267). -/
def shrinkSet (c : Fin 128) (v : BitVec 6) (s : State) (k : Nat) : State :=
  let x := getCl s c
  if linesInSet x k ≤ cacheWays x then s
  else
    match victim s c v k with
    | some h => if h.inU then mergeLine s h.line (some v) else evict s c h
    | none => s

/-- BANK MODE CHANGE DONE, of the lowest busy bank, as changes proceed in ascending order: a way leaving the cache has been
walked; the bank is zeroed, takes its mode, and is no longer busy (R74). -/
def execBankModeChangeDone (cl : Nat) (b : Fin 32) (s : State) : Out :=
  if h : cl < 128 then
    let c : Fin 128 := ⟨cl, h⟩
    let x := getCl s c
    if (List.range 32).find? (fun i => x.busy.getLsbD i) != some b.val then .next s
    else
      let s1 := if modeOf x.cbmode b.val == 0 then (List.range 1024).foldl (shrinkSet c x.askedBy) s else s
      let key := scratchKey cl (b.val * 0x20000)
      let y := getCl s1 c
      let y1 := { y with cbmode := setMode y.cbmode b.val (modeOf y.asked b.val)
                         asked := setMode y.asked b.val 0
                         busy := y.busy &&& ~~~(BitVec.twoPow 32 b.val), fifo := y.fifo.set b []
                         fifoBad := y.fifoBad.filter (fun q => q.1 != b) }
      let s2 := endReuse (setCl s1 c y1) key 0x20000
      .next { s2 with
        loc := s1.loc.makeZero key 0x20000
        locPoison := s1.locPoison.filter (fun q => !decide (key / 32 ≤ q ∧ q < key / 32 + 0x1000)) }
  else .next s

/-! ## ADVST (R118) -/

/-- A write of 5 to ADVST.state stops the sequencer for the group on this core; it abandons a load of the buffer. Requests in
flight still complete or are dropped (R113). -/
def stopAdvice (c : Core) : Core := { c with adv := { c.adv with st := .stopped, cause := 5, barred := true } }

/-- ADVST STOP WRITE: in the S view. -/
def execAdvstStopWrite (s : State) : Out := .next (if s.core.view == .u then s else s.updCore stopAdvice)

/-! ## Handover (R104 to R106, R380) -/

def pageTarget (t : BitVec 2) : PageSt := if t == 1 then .host else if t == 2 then .readOnly else .device

/-- The page-state entry of a frame set; a device-owned frame has none (R104). -/
def setPage (c : Coherence) (frame : Nat) (st : PageSt) (party : BitVec 4) : Coherence :=
  let rest := c.pages.filter (fun e => e.frame != frame)
  { c with pages := if st == .device then rest else rest ++ [⟨frame, st, party⟩] }

/-- Whether a frame stands in a state with a party; a device-owned frame has no party. -/
def pageIs (c : Coherence) (frame : Nat) (t : BitVec 2) (party : BitVec 4) : Bool :=
  match c.pages.find? (fun e => e.frame == frame) with
  | none => t == 0
  | some e => e.st == pageTarget t && e.party == party

/-- Updates that wait in clusters for a grant of a line of a frame are performed, as accesses that come before its close
(R106). -/
def settleFrame (s : State) (frame : Nat) : State :=
  (List.finRange 128).foldl (fun t c =>
    ((((getCl t c).uwaits.map (·.line)).filter (fun l => l / 512 == frame)).eraseDups).foldl (fun u l => settleU u c l) t) s

/-- A write of PGHO (R105): ignored in progress, refused, done at once, or the frame closed. -/
def writePgho (s : State) (v : Word) : State :=
  let h := s.coh.hand
  if h.status == 1 then s
  else
    let frame := v.extractLsb' 24 36
    let party := v.extractLsb' 12 4
    let target := v.extractLsb' 8 2
    let put (st : BitVec 2) : State := { s with coh := { s.coh with hand := ⟨frame, party, target, st, 0⟩ } }
    let full := target != 0 && decide (65536 ≤ s.coh.pages.length) && !s.coh.pages.any (fun e => e.frame == frame.toNat)
    if target == 3 || window s.part (frame.toNat * 2 ^ 16) == .absent || full then put 3
    else if pageIs s.coh frame.toNat target party then put 2
    else
      let t := settleFrame s frame.toNat
      { t with coh := { t.coh with hand := ⟨frame, party, target, 1, 0⟩ } }

/-- PGHO WRITE, in the S view (R105). -/
def execPghoWrite (v : Word) (s : State) : Out := .next (writePgho s v)

/-- One line given up by every cluster: W lines written home, a U line merged and charged to whoever began it, an M line
written back, S, E and M lines gone with their tokens at the home (R106, R267). -/
def purgeLine (s : State) (line : Nat) (who : Option (BitVec 6)) : State :=
  let s1 := mergeLine ((List.finRange 128).foldl (fun t c => flushW t c line) s) line who
  gather ((List.finRange 128).foldl (fun t c => match findLine (getCl t c) line with
    | some l => if l.st == .m then chargeBack t c l.vdid line else t
    | none => t) s1) line

/-- Lines of a frame that some cluster, token record or home record names. -/
def frameLines (s : State) (frame : Nat) : List Nat :=
  let cl := s.clusters.toList.flatMap (fun c => c.lines.map (·.line) ++ c.us.map (·.line) ++ c.ws.map (·.line))
  ((cl ++ s.coh.toks.map (·.line) ++ s.coh.urecs.map (·.line)).filter (fun l => l / 512 == frame)).eraseDups.mergeSort

/-! ### Accesses from outside (R104, R106) -/

/-- What an access from outside is answered. -/
def answer (s : State) (a : Answer) : State := { s with part := { s.part with answers := s.part.answers ++ [a] } }

/-- A line made ready for an access of the system die's gateway, which caches nothing outside the part: an active persistent
request completes first, a line in U is merged; a read leaves copies shared, a write leaves none (R95, R98, R104). A host-owned
frame has no copy. -/
def gatewayLine (s : State) (pa : Nat) (write : Bool) : State :=
  let line := lineOf pa
  if pageState s.coh pa == .host then aliasRead s pa
  else
    let s1 := aliasRead (mergeLine (completeLine s line) line) pa
    if write then gather s1 line else (List.range 4).foldl (fun u g => dieShare u g line) s1

/-- n bytes read from outside, line by line, with their poison. -/
def outsideBytes : Nat → Nat → Nat → State → State × List Byte × Bool
  | 0, _, _, s => (s, [], false)
  | fuel + 1, pa, n, s =>
    let k := min n (128 - pa % 128)
    let s1 := gatewayLine s pa false
    let key := memKey s1.part pa
    let r := outsideBytes fuel (pa + k) (n - k) s1
    if n = 0 then (s, [], false) else (r.1, s1.mem.readList key k ++ r.2.1, touchesPoison s1.poison key k || r.2.2)

/-- Bytes written from outside, line by line. -/
def outsideWrite : Nat → Nat → List Byte → State → State
  | 0, _, _, s => s
  | fuel + 1, pa, l, s =>
    let k := min l.length (128 - pa % 128)
    if k = 0 then s
    else
      let s1 := gatewayLine s pa true
      let key := memKey s1.part pa
      outsideWrite fuel (pa + k) (l.drop k) (wake { s1 with mem := s1.mem.writeList key (l.take k) } false key k)

/-- An access from outside to a frame that is not closed, by the frame's state: a write to one shared read-only gets a completer
abort (R104). At most 512 bytes are written and 4,096 read (R291); a poisoned read answers nothing. -/
def serveOutside (s : State) (pa : Word) (write : Option (List Byte)) (n : Nat) : State :=
  match write with
  | some l => if pageState s.coh pa.toNat == .readOnly then answer s .completerAbort else outsideWrite 6 pa.toNat (l.take 512) s
  | none =>
    let r := outsideBytes 34 pa.toNat (min n 4096) s
    answer r.1 (.bytes (if r.2.2 then [] else r.2.1))

/-- The accesses that stalled at the system die's gateway proceed, in the order they came. -/
def serveStalled (s : State) : State :=
  s.coh.outside.foldl (fun t r => serveOutside t r.pa r.write r.len) { s with coh := { s.coh with outside := [] } }

/-- HANDOVER PASS: the walk is done, the entry takes its target, and stalled accesses proceed under the new state (R106). The walk
is charged to nobody (R267). -/
def execHandoverPass (s : State) : Out :=
  let h := s.coh.hand
  if h.status != 1 then .next s
  else
    let s1 := (frameLines s h.frame.toNat).foldl (fun t l => purgeLine t l none) s
    .next (drainRecs <| serveStalled
      { s1 with coh := { setPage s1.coh h.frame.toNat (pageTarget h.target) h.party with hand := { h with status := 2 } } })

/-- Every sector of a line poisoned. -/
def poisonLine (s : State) (line : Nat) : State :=
  (List.range 4).foldl (fun t q => setPoison t (line * 128 + q * 32)) s

/-- HANDOVER TIMEOUT: the step is issued again; after 1 ms the handover is abandoned, the lines that were not answered for
are poisoned, stalled accesses proceed under the previous state, and a machine check is raised (R380). -/
def execHandoverTimeout (final : Bool) (lost : List Nat) (s : State) : Out :=
  let h := s.coh.hand
  if h.status != 1 || h.ns < 20000 then .next s
  else if !final || h.ns < 1000000 then .next s
  else
    let mine := lost.filter (fun l => l / 512 == h.frame.toNat)
    let s1 := ((frameLines s h.frame.toNat).filter (fun l => !mine.contains l)).foldl (fun t l => purgeLine t l none) s
    let s2 := mine.foldl (fun t l => poisonLine
      { mapCl t (fun c => { c with lines := c.lines.filter (fun x => x.line != l), us := c.us.filter (fun x => x.line != l)
                                   ws := c.ws.filter (fun x => x.line != l) }) with
        coh := { setTok t.coh (freshTok l) with urecs := t.coh.urecs.filter (fun r => r.line != l) } } l) s1
    let s3 := drainRecs <| serveStalled { s2 with coh := { s2.coh with hand := { h with status := 3 } } }
    .next (logRecord s3 (mcRecord s3 2 4 11 0 (BitVec.ofNat 64 (h.frame.toNat * 2 ^ 16)) 0))

/-! ## syswr -/

def setVd' (s : State) (f : Vd → Vd) : State :=
  match s.vd with
  | some d => { s with part := setVd s.part (f d) }
  | none => s

def updDie (s : State) (f : Die → Die) : State :=
  { s with part := { s.part with dies := s.part.dies.set s.die (f s.part.dies[s.die]) } }

/-- A register written by number, as a view that may write it does, the S view by default: reserved bits are ignored, and a
value that the register's map rejects leaves the field undisturbed (R7, R10). -/
def sysPut (s : State) (n : Nat) (v : Word) : State :=
  let upd := s.updCore
  if n = 0x000 then upd (fun c => if (v.extractLsb' 0 13).toNat ≤ 4096 then { c with vl := (v.extractLsb' 0 13).toNat } else c)
  else if n = 0x002 then upd (fun c => if (v.extractLsb' 0 3).toNat < 6 then { c with rm := v.extractLsb' 0 3 } else c)
  else if n = 0x003 then
    let k := (v.extractLsb' 8 6).toNat
    upd (fun c => if s.part.lockedClock || k = 0 || lmapLive c < k then c
      else { c with alcCeil := k, alcCur := if k < c.alcCur then k else c.alcCur })
  else if n = 0x006 then upd (fun c => { c with stripBase := v })
  else if n = 0x007 then upd (fun c => { c with stripNext := v })
  else if n = 0x008 then upd (fun c => { c with seed := v })
  else if n = 0x00E then upd (fun c => { c with capbase := v.extractLsb' 12 36 })
  else if n = 0x010 then upd (fun c => { c with xmask := v.extractLsb' 0 12 })
  else if n = 0x011 then upd (fun c => { c with freeze := v.extractLsb' 0 2 })
  else if n = 0x012 then upd (fun c => { c with resync := v })
  else if n = 0x014 then setVd' s (fun d => { d with fq := { d.fq with drop := v.extractLsb' 48 16, head := v.extractLsb' 16 16 } })
  else if n = 0x015 then setVd' s (fun d => { d with sq := { d.sq with drop := v.extractLsb' 48 16, head := v.extractLsb' 16 16 } })
  else if n = 0x018 then (if v.extractLsb' 16 3 == 5 then upd stopAdvice else s)
  else if n = 0x019 then upd (fun c => { c with advCnt := ⟨v.extractLsb' 48 16, v.extractLsb' 32 16, v.extractLsb' 16 16, v.extractLsb' 0 16⟩ })
  else if n = 0x020 then writeCbmode s s.core.view v
  else if n = 0x030 then
    let k := (v.extractLsb' 0 8).toNat
    if 10 ≤ k ∧ k ≤ 200 then updDie s (fun d => { d with droopth := k }) else s
  else if n = 0x031 then
    let k := (v.extractLsb' 0 4).toNat
    if k = 0 then s else updDie s (fun d => { d with stretch := k })
  else if n = 0x032 then updDie s (fun d => { d with halve := (v.extractLsb' 0 8).toNat })
  else if 0x040 ≤ n ∧ n ≤ 0x04F then
    upd (fun c => { c with pmask := (c.pmask &&& ~~~(BitVec.ofNat 1024 ((2 ^ 64 - 1) * 2 ^ (64 * (n - 0x040)))))
                                      ||| (v.zeroExtend 1024 <<< (64 * (n - 0x040))) })
  else if n = 0x100 then writePgho s v
  else if n = 0x207 then upd (fun c => { c with inflSel := v.extractLsb' 0 8 })
  else s

def viewOf : Nat → View
  | 0 => .u
  | 1 => .s
  | _ => .m

def advStOf : Nat → AdvSt
  | 0 => .off | 1 => .loading | 2 => .running | 3 => .awaiting | 4 => .seeking | _ => .stopped

/-- ADVST written in the M view: every field; reserved codes of state and cause leave their fields undisturbed. -/
def putAdvst (v : Word) (c : Core) : Core :=
  let k := (v.extractLsb' 16 3).toNat
  let cause := v.extractLsb' 19 3
  let c1 := if k = 5 then stopAdvice c else if 5 < k then c else { c with adv := { c.adv with st := advStOf k } }
  { c1 with adv := { c1.adv with cur := v.extractLsb' 48 16, pc := v.extractLsb' 0 13
                                 cause := if k = 5 ∨ 5 < cause.toNat then c1.adv.cause else cause } }

/-- A value put into a word that follows other state (log 61). -/
def putShown (n : Nat) (now v : Word) (c : Core) : Core :=
  { c with put := (n, now, v) :: c.put.filter (fun x => x.1 != n) }

/-- LMAP written in the M view: at least 16 live lanes, and a live count from 16 to 32, else the field stays (R300); ALC keeps within
the live lanes, and equals their number in locked-clock mode (R301). -/
def putLmap (locked : Bool) (v : Word) (c : Core) : Core :=
  let lanes := v.extractLsb' 0 32
  let k := (v.extractLsb' 32 6).toNat
  let c1 := if liveLanes lanes < 16 then c else { c with lmap := lanes, put := c.put.filter (fun x => x.1 != 0x004) }
  let now := lmapImage { c1 with put := [] }
  let c2 := if k < 16 ∨ 32 < k ∨ k = liveLanes c1.lmap then c1
    else putShown 0x004 now (BitVec.ofNat 64 (c1.lmap.toNat + k * 2 ^ 32)) c1
  let ceil := if locked then lmapLive c2 else min c2.alcCeil (lmapLive c2)
  { c2 with alcCeil := ceil, alcCur := if locked then ceil else min c2.alcCur ceil }

/-- PGHO written in the M view: a status of 1 asks for the handover, as a write in the S view does; another one is put, with the
fields (R10, R105; log 61). A write while a handover is in progress is ignored. -/
def putPgho (s : State) (v : Word) : State :=
  if s.coh.hand.status == 1 then s
  else if v.extractLsb' 0 2 == 1 then writePgho s v
  else { s with coh := { s.coh with hand := ⟨v.extractLsb' 24 36, v.extractLsb' 12 4, v.extractLsb' 8 2, v.extractLsb' 0 2, 0⟩ } }

/-- A system register written in the M view, where every field is rw but TSTAMP, CGID and VLMAX; a reserved code leaves its field
undisturbed (R10, R276, R408, R409). ALC stays as locked-clock mode has it (R296). -/
def sysPutM (s : State) (n : Nat) (v : Word) : State :=
  let upd := s.updCore
  if n = 0x003 then
    let cur := (v.extractLsb' 0 6).toNat
    let s1 := sysPut s n v
    s1.updCore (fun c => if !s.part.lockedClock ∧ 1 ≤ cur ∧ cur ≤ c.alcCeil then { c with alcCur := cur } else c)
  else if n = 0x004 then upd (putLmap s.part.lockedClock v)
  else if n = 0x005 then
    upd (fun c => { c with acc := v.extractLsb' 0 4, want := (v.extractLsb' 8 5).toNat, lanes := (v.extractLsb' 16 5).toNat })
  else if n = 0x00A then updDie s (fun d => { d with cycle := v })
  else if n = 0x00D then upd (fun c => { c with vdid := v.extractLsb' 0 6, part := v.extractLsb' 8 4 })
  else if n = 0x00F then
    let k := (v.extractLsb' 0 2).toNat
    if k = 3 then s else upd (fun c => { c with view := viewOf k })
  else if n = 0x014 then
    setVd' s (fun d => { d with fq := ⟨v.extractLsb' 48 16, v.extractLsb' 16 16, v.extractLsb' 0 16⟩ })
  else if n = 0x015 then
    setVd' s (fun d => { d with sq := ⟨v.extractLsb' 48 16, v.extractLsb' 16 16, v.extractLsb' 0 16⟩ })
  else if n = 0x018 then upd (putAdvst v)
  else if n = 0x020 then writeCbmode s .m v
  else if n = 0x021 then updCl s s.cl (fun c => { c with busy := v.extractLsb' 0 32, refused := v.extractLsb' 32 32 })
  else if n = 0x100 then putPgho s v
  else if n = 0x200 then upd (fun c => putShown n (inflightWord c n) (v &&& 0x0001FFFFFFFFFFFF) c)
  else if n = 0x206 ∨ n = 0x208 ∨ n = 0x209 then upd (fun c => putShown n (inflightWord c n) v c)
  else if n = 0x201 then upd (fun c => { c with waddr := v })
  else if 0x202 ≤ n ∧ n ≤ 0x205 then
    let next := (v.extractLsb' 0 32).toNat
    upd (fun c => { c with streams := c.streams.set (Fin.ofNat 4 (n - 0x202)) ((c.streams[Fin.ofNat 4 (n - 0x202)]).map (fun x =>
      { x with next := next, count := next + (v.extractLsb' 32 32).toNat })) })
  else sysPut s n v

/-- sysrd (R164). -/
def execSysrd (d : SReg) (r : BitVec 12) (s : State) : Out :=
  if sysBarred s.core.view r.toNat then raise s kPrivilege
  else .next (s.retire d (sysRead s r.toNat) len1)

/-- syswr (R164): a register, or a field, that the view does not write is left alone. -/
def execSyswr (d : SReg) (r : BitVec 12) (s : State) : Out :=
  let n := r.toNat
  if sysBarred s.core.view n then raise s kPrivilege
  else
    let v := s.sreg d
    .next ((match s.core.view with
      | .m => sysPutM s n v
      | .s => if sysWritesS n then sysPut s n v else s
      | .u => if sysWritesU n then sysPut s n v else s).advance len1)

/-! ## pgref (R166, R286) -/

/-- The frame of a physical address that has a reference count: its number; none outside the windows that have counts. -/
def countedFrame (p : Part) (pa : Word) : Option Nat :=
  let a := (pa.extractLsb' 16 36).toNat * 2 ^ 16
  match window p a with
  | .absent | .host => none
  | _ => some (a / 2 ^ 16)

def frameCount (p : Part) (f : Nat) : BitVec 16 := ((p.frames.find? (fun x => x.1 == f)).map (·.2)).getD 0

def setFrameCount (p : Part) (f : Nat) (n : BitVec 16) : Part :=
  let rest := p.frames.filter (fun x => x.1 != f)
  { p with frames := if n == 0 then rest else rest ++ [(f, n)] }

/-- One pgref: an atomic on the count of a frame. -/
def pgref (f : BitVec 16 → BitVec 16) (d a : SReg) (s : State) : Out :=
  if s.core.view == .u then raise s kPrivilege
  else
    match countedFrame s.part (s.sreg a) with
    | none => .next (s.retire d (BitVec.allOnes 64) len1)
    | some k =>
      let n := f (frameCount s.part k)
      .next ({ s with part := setFrameCount s.part k n }.retire d (n.zeroExtend 64) len1)

def execPgrefInc (d a : SReg) (s : State) : Out := pgref (fun n => if n == 0xFFFF then n else n + 1) d a s
def execPgrefDec (d a : SReg) (s : State) : Out := pgref (fun n => if n == 0 then n else n - 1) d a s
def execPgrefRd (d a : SReg) (s : State) : Out := pgref (fun n => n) d a s

/-! ## tlbinv (R166, R284) -/

/-- Translations, and the table pointers that lead to them, removed from every core and cluster TLB and from the die walkers. -/
def dropTlb (s : State) (p : TlbEntry → Bool) (q : PtrEntry → Bool) : State :=
  let s1 := mapCl (s.mapCores (fun c => { c with tlb := c.tlb.filter (fun t => !p t) }))
    (fun c => { c with tlb := c.tlb.filter (fun t => !p t), ptrs := c.ptrs.filter (fun t => !q t) })
  { s1 with part := { s1.part with dies := s1.part.dies.map (fun d => { d with ptrs := d.ptrs.filter (fun t => !q t) }) } }

/-- Every access that a cluster still holds back is performed: updates applied, W lines written home, in every cluster (R88,
R166). -/
def performAll (s : State) : State := (List.finRange 128).foldl flushAllW s

def execTlbinvPage (a : SReg) (s : State) : Out :=
  if s.core.view == .u then raise s kPrivilege
  else
    let va := (s.sreg a).toNat
    let v := s.core.vdid
    .next ((dropTlb (performAll s)
      (fun t => t.vdid == v && decide (t.base ≤ va ∧ va < t.base + 2 ^ leafShift t.level))
      (fun t => t.vdid == v && decide (t.base ≤ va ∧ va < t.base + 2 ^ entryShift t.level))).advance len1)

def execTlbinvAll (s : State) : Out :=
  if s.core.view == .u then raise s kPrivilege
  else
    let v := s.core.vdid
    .next ((dropTlb (performAll s) (fun t => t.vdid == v) (fun t => t.vdid == v)).advance len1)

end Sys2Proof.Machine
end

