-- ==== Sys2Proof/Machine/Sync.lean ====
section
/-! DEFINITION. Class 7: fences (R236), update-only stores (R237) and cache maintenance (R107, R242, R243). vustore and the
vector locks are in VecMem. -/

namespace Sys2Proof.Machine

open Sys2Proof

/-! ## Fences (R236) -/

/-- fence.rel: queued vector accesses are performed and W lines written at their homes. -/
def fenceRel (s : State) : Out :=
  if releaseWaits s then .next (s.waitAs .behind) else .next ((flushAllW s s.cl).advance len1)

def execFenceAcq (_sc : Scope) (s : State) : Out :=
  if acquireWaits s then .next (s.waitAs .behind) else .next (s.advance len1)

def execFenceRel (_sc : Scope) (s : State) : Out := fenceRel s

def execFenceAcqrel (_sc : Scope) (s : State) : Out := fenceRel s

/-! ## ustore (R237) -/

/-- ustore: R68, R71 and the page, then one update under the tag; no poison check. -/
def execUstore (tag : UTag) (rel : Bool) (_sc : Scope) (d a : SReg) (o : AddrX) (s : State) : Out :=
  let va := s.sreg a + addrXVal s o
  let n := utagW tag / 8
  if va.extractLsb' 48 16 != 0 then raiseAt s kAddressRange 3 va
  else if !alignedTo va n then raiseAt s kAlignment 0 va
  else if vmqHolds s va n true || (rel && releaseWaits s) then .next (s.waitAs .behind)
  else
    match s.check .update va with
    | .fault f => raiseX s f va
    | .stall => .next (s.waitAs .other)
    | .ok x =>
      let s1 := if rel then flushAllW s s.cl else s
      .next ((watch (updPiece s1 tag false va x (s.sreg d).toNat) va n true).advance (addrXLen o))

/-! ## Walks of a range (R107, R242) -/

/-- The pages that a range of n bytes meets: each with its first address and one past its last in the range. -/
def rangePages (va n : Nat) : List (Nat × Nat) :=
  (List.range ((va + n - 1) / 2 ^ 16 + 1 - va / 2 ^ 16)).map (fun i =>
    let p := va / 2 ^ 16 + i
    (if i = 0 then va else p * 2 ^ 16, if va + n < (p + 1) * 2 ^ 16 then va + n else (p + 1) * 2 ^ 16))

inductive WalkRes where
  | done (s : State)
  | stall (s : State)
  | fault (s : State) (f : XFault) (va : Word)
  deriving DecidableEq, Repr

/-- `act` done on the physical span of each page in ascending order; a host-owned frame has nothing to visit. -/
def walkPages (act : State → Nat → Nat → State) : List (Nat × Nat) → State → WalkRes
  | [], s => .done s
  | p :: t, s =>
    let va : Word := BitVec.ofNat 64 p.1
    match s.check .any va with
    | .fault f => .fault s f va
    | .stall => .stall s
    | .ok x => walkPages act t (if pageState s.coh x.pa == .host then s else act s x.pa (p.2 - p.1))

/-- The range of a walk, checked: length, R68, then its pages; the AP goes on when the walk is done. -/
def walkRange (va len : Word) (n : Nat) (act : State → Nat → Nat → State) (s : State) : Out :=
  if 2 ^ 30 < len.toNat then raise s kIllegalOperand
  else if len = 0 then .next (s.advance n)
  else if 2 ^ 48 < va.toNat + len.toNat then raiseAt s kAddressRange 3 va
  else if releaseWaits s then .next (s.waitAs .behind)
  else
    match walkPages act (rangePages va.toNat len.toNat) (flushAllW s s.cl) with
    | .done s1 => .next (s1.advance n)
    | .stall s1 => .next (s1.waitAs .other)
    | .fault s1 f x => raiseX s1 f x

/-- An M line written back that stays valid and clean; a merge is charged to the issuer (R242, R267). -/
def cleanLine (s : State) (line : Nat) : State :=
  let s1 := (List.finRange 128).foldl (fun t c => flushW t c line) s
  let s2 := (List.finRange 128).foldl (fun t c => match findLine (getCl t c) line with
    | some l => if l.st == .m then chargeBack t c l.vdid line else t
    | none => t) (mergeLine s1 line (some s.core.vdid))
  mapCl s2 (fun c => { c with lines := c.lines.map (fun l => if l.line == line && l.st == .m then { l with st := .e } else l) })

/-- One span of a cflush: the lines of its frame that some cache holds. -/
def flushSpan (inv : Bool) (s : State) (pa n : Nat) : State :=
  ((frameLines s (pa / 2 ^ 16)).filter (fun l => decide (pa / 128 ≤ l ∧ l ≤ (pa + n - 1) / 128))).foldl
    (fun t l => if inv then purgeLine t l (some s.core.vdid) else cleanLine t l) s

/-- Where base and length of a cflush or cinv stand: the length is s[b] or the literal, the base has word 2 added. -/
def spanLen (s : State) : AddrX → Word
  | .reg b _ => s.sreg b
  | .lit v _ => v

def spanOff : AddrX → Word
  | .reg _ off => off.signExtend 64
  | .lit _ off => off.signExtend 64

/-- cflush (R242). -/
def execCflush (inv : Bool) (_sc : Scope) (a : SReg) (len : AddrX) (s : State) : Out :=
  walkRange (s.sreg a + spanOff len) (spanLen s len) (addrXLen len) (flushSpan inv) s

/-- Whether a line, by the place of its bytes, holds a byte of a span of one frame, whichever window names it (R69). -/
def spanHits (p : Part) (pa n line : Nat) : Bool :=
  let k := memKey p (line * 128)
  (List.range 17).any (fun i =>
    let at_ := (pa / 4096 + i) * 4096 + k % 4096
    decide (at_ < pa + n ∧ pa < at_ + 128) && memKey p at_ == k)

/-- The lines of a span removed from the instruction caches that a cinv names: of cores that the virtual device may use, whatever
runs there now. -/
def dropIcache (kind : CinvKind) (s : State) (pa n : Nat) : State :=
  let me := s.core
  let own (c : Core) : Bool := s.vd.any (fun d => (d.excl ||| d.shared).getLsbD c.index.val) || c.index == me.index
  let named (c : Core) : Bool := match kind with
    | .self => c.index == me.index
    | .cl => coreCluster c.index == coreCluster me.index && own c
    | .vdev => own c
  s.mapCores (fun c => if named c then { c with icache := c.icache.filter (fun l => !spanHits s.part pa n l.line) } else c)

/-- cinv (R243). -/
def execCinv (kind : CinvKind) (a : SReg) (len : AddrX) (s : State) : Out :=
  walkRange (s.sreg a + spanOff len) (spanLen s len) (addrXLen len) (dropIcache kind) s

end Sys2Proof.Machine
end

