-- ==== Sys2Proof/Machine/Advice.lean ====
section
/-! DEFINITION. The advice sequencer: its buffer and table (R109, R115), cairns (R116, R117), what its actions do and when
they are dropped (R111 to R113), its instructions (R244 to R250), and how its hints order copies (R247). -/

namespace Sys2Proof.Machine

open Sys2Proof

/-! ## The sequencer's registers -/

def State.updAdv (s : State) (f : Advice → Advice) : State := s.updCore (fun c => { c with adv := f c.adv })

def State.hreg (s : State) (r : HReg) : Word := s.core.adv.h[r]

def Advice.setH (a : Advice) (r : HReg) (v : Word) : Advice := { a with h := a.h.set r v }

/-- A stop with a cause (R116). -/
def Advice.stopAt (a : Advice) (cause : BitVec 3) : Advice := { a with st := .stopped, cause := cause }

/-- pc grows by 4 behind an instruction that does not jump; past 0x1FFC the sequencer stops (R244, R250). -/
def Advice.nextPc (a : Advice) : Advice :=
  let b := { a with pc := a.pc + 4 }
  if 0x2000 ≤ a.pc.toNat + 4 then b.stopAt 4 else b

def advNext (s : State) : State := s.updAdv Advice.nextPc

def advDrops (s : State) (n : Nat) : State := s.updCore (fun c => { c with advCnt := { c.advCnt with drop := satAdd16 c.advCnt.drop n } })

/-- An a.ldidx dropped: the miss flag is set, and both counters grow (R111, R112, R249). -/
def advMiss (s : State) : State :=
  ((advDrops s 1).updAdv (fun a => { a with miss := true })).updCore
    (fun c => { c with advCnt := { c.advCnt with miss := satAdd16 c.advCnt.miss 1 } })

def advRealign (s : State) : State :=
  s.updCore (fun c => { c with advCnt := { c.advCnt with realign := satAdd16 c.advCnt.realign 1 } })

/-! ## The buffer -/

/-- n bytes of the buffer, little-endian. -/
def bufField (b : List Byte) : Nat → Nat → Nat
  | _, 0 => 0
  | off, n + 1 => ((b[off]?).getD 0).toNat + 256 * bufField b (off + 1) n

def abase (a : Advice) : Word := a.aentry &&& ~~~0x1FFF

/-- Offset of the dispatch table in the region. -/
def tableOff (a : Advice) : Word := a.ctab - abase a

def tableEntry (a : Advice) (i : Nat) : BitVec 32 := BitVec.ofNat 32 (bufField a.buffer ((tableOff a).toNat + 4 + 4 * i) 4)

/-- Entries of the table (R115); none for a ctab of 0. -/
def tableCount (a : Advice) : Nat := if a.ctab = 0 then 0 else bufField a.buffer (tableOff a).toNat 2

/-- The rules of R115. -/
def tableOk (a : Advice) : Bool :=
  a.ctab == 0 ||
    (decide ((tableOff a).toNat % 4 = 0 ∧ (tableOff a).toNat < 0x2000)
      && bufField a.buffer ((tableOff a).toNat + 2) 2 == 0
      && decide ((tableOff a).toNat + 4 + 4 * tableCount a ≤ 0x2000)
      && (List.range (tableCount a)).all (fun i =>
        (tableEntry a i).extractLsb' 13 3 == 0 && (tableEntry a i).extractLsb' 0 2 == 0
          && (i == 0 || decide (((tableEntry a (i - 1)).extractLsb' 16 16).toNat < ((tableEntry a i).extractLsb' 16 16).toNat))))

/-- The target that the table gives a cairn. -/
def dispatch (a : Advice) (c : BitVec 16) : Option (BitVec 13) :=
  ((List.range (tableCount a)).find? (fun i => (tableEntry a i).extractLsb' 16 16 == c)).map
    (fun i => (tableEntry a i).extractLsb' 0 13)

/-- What loading the region is found as; `stall` while a frame that it needs is closed for a handover (R106). -/
inductive RegionRes where
  | ok (s : State) (l : List Byte)
  | stall
  | fail
  deriving DecidableEq, Repr

/-- n sectors of the region read through the kernel's translations; a page without one, or poison, fails the load (R109). -/
def readRegion : Nat → Word → State → List Byte → RegionRes
  | 0, _, s, l => .ok s l
  | n + 1, va, s, l =>
    if va.extractLsb' 48 16 != 0 then .fail
    else
      match engRead s va 32 with
      | .ok r => if r.2.2 then .fail else readRegion n (va + 32) r.1 (l ++ natBytes 32 r.2.1)
      | .stall => .stall
      | .fault _ _ _ _ => .fail

/-- ADVICE LOAD COMPLETE (R109): the buffer stands and the sequencer runs from its entry, or it stays stopped for the group
with cause 3. -/
def execAdviceLoadComplete (s : State) : Out :=
  let a := s.core.adv
  if a.st != .loading then .next s
  else
    let fail : State := s.updAdv (fun a => { a with st := .stopped, cause := 3, barred := true })
    if a.aentry.extractLsb' 0 2 != 0 then .next fail
    else
      match readRegion 256 (abase a) s [] with
      | .stall => .next s
      | .fail => .next fail
      | .ok s1 l =>
        let a1 := { s1.core.adv with buffer := l }
        if !tableOk a1 then .next fail
        else .next (s1.updAdv (fun _ => { a1 with st := .running, pc := a1.aentry.extractLsb' 0 13 }))

/-! ## Cairns (R116, R117) -/

/-- The head of the FIFO becomes the current cairn. -/
def consume (a : Advice) : Advice :=
  match a.fifo with
  | [] => a
  | (c, b) :: t => { a with fifo := t, cur := c, snapshot := b }

/-- After an overflow the sequencer abandons its position and takes the cairn that is left (R117). -/
def takeOverflow (s : State) : State :=
  match s.core.adv.fifo with
  | [] => s.updAdv (fun a => { a with overflow := false })
  | (c, _) :: _ =>
    advRealign (s.updAdv (fun a =>
      let a1 := { consume a with overflow := false }
      match dispatch a c with
      | some t => { a1 with st := .running, pc := t }
      | none => { a1 with st := .seeking }))

/-- The table of R116 for a head c while the sequencer awaits or seeks. -/
def takeCairn (s : State) : State :=
  let a := s.core.adv
  match a.fifo with
  | [] => s
  | (c, _) :: _ =>
    let went := s.updAdv consume
    let jump (t : BitVec 13) : State := went.updAdv (fun a => { a with st := .running, pc := t })
    match a.st with
    | .awaiting =>
      if decide (a.awaitC.toNat ≤ c.toNat ∧ c.toNat ≤ a.awaitC.toNat + a.awaitS.toNat) then
        went.updAdv (fun a => { a with st := .running }.nextPc)
      else
        match dispatch a c with
        | none => if c == 0xFFFF then went else advRealign (went.updAdv (fun a => { a with st := .seeking }))
        | some t => advRealign (jump t)
    | .seeking =>
      match dispatch a c with
      | some t => jump t
      | none => went
    | _ => s

/-! ## Requests (R111 to R113) -/

/-- The core's checks of a range: R68 and a translation with read permission of every page; tables in a closed frame fail them
too (R112). -/
def advRangeOk (s : State) (va : Word) (len : Nat) : Bool :=
  decide (va.toNat + len ≤ 2 ^ 48) && (rangePages va.toNat len).all (fun p =>
    match s.translate .load (BitVec.ofNat 64 p.1) with
    | .ok _ => true
    | _ => false)

/-- The table entries that the translations of a range read are loaded, as any walk's are (R284). -/
def advWalks (s : State) (va : Word) (len : Nat) : State :=
  (rangePages va.toNat len).foldl (fun t p =>
    match t.translate .load (BitVec.ofNat 64 p.1) with
    | .ok x => walkLoads t t.cl t.core.vdid { Way.plain .advice with walk := x.reads.map Prod.fst }
    | _ => t) s

/-- What becomes of one line's request: it is done, skipped by a case of R112, or waits for a grant or at its gateway. -/
inductive AdvLine where
  | done (s : State)
  | skip
  | wait
  deriving DecidableEq, Repr

/-- Room for an advice fill: a line of the own virtual device or of one over its quota leaves, never one in U or W; where only
such a line could, the fill is skipped, and where none could, the line is read without being kept (R112, R269). -/
def advRoom (s : State) (c : Fin 128) (v : BitVec 6) (line : Nat) : Option (State × Bool) :=
  let x := getCl s c
  let k := setOf line
  if linesInSet x k < cacheWays x then some (s, true)
  else
    let l := (setOrder x k).reverse.filter (fun h => h.vdid == v || h.inU || decide (effQuota s c h.vdid < heldInSet x k h.vdid))
    let plain := l.filter (fun h => !h.inU && (findWLine x h.line).isNone)
    match plain.find? (fun h => decide (effQuota s c h.vdid < heldInSet x k h.vdid)) with
    | some h => some (evict s c h, true)
    | none =>
      match plain.head? with
      | some h => some (evict s c h, true)
      | none => if l.isEmpty then some (s, false) else none

/-- The arbiters that a line passes on its way to a cluster, with its grant units: from the cluster that supplies it, or from its
home and its vault (R113, R245, R260). -/
def linePath (s : State) (c : Fin 128) (line : Nat) : List (Nat × Nat × Nat) :=
  let links (from_ : Node) : List (Nat × Nat × Nat) := (pathOf from_ (some c.val)).map (fun l => (l.1, l.2, 2))
  match supplier s line with
  | some d => links (some d.val)
  | none =>
    let h := homeNode s.part (line * 128)
    links h ++ (match h with
      | some k => [(1, k, 1)]
      | none => [])

/-- Whether every arbiter of a path grants an advice request: the own bucket alone pays, and no request that could be granted stands
there (R113, R264). -/
def advPays (p : Part) (v : BitVec 6) (l : List (Nat × Nat × Nat)) : Bool :=
  l.all (fun x => (findBucket p x.1 x.2.1 v).isNone ||
    (!p.areqs.any (fun r => r.kind == x.1 && r.inst == x.2.1 && (reqClass p r).isSome) &&
      (freeAdvice p x.1 x.2.1 v || decide (x.2.2 ≤ ownTokens p x.1 x.2.1 v .advice))))

/-- One line requested for reading only. A line already present keeps its place. A transient read that other gateways would not
answer has failed, and is not tried again (R95, R112). -/
def advLine (s : State) (v : BitVec 6) (line : Nat) (pos : Option Ins) : AdvLine :=
  let pa := line * 128
  let g := (clusterDie s.cl).castSucc
  if pageState s.coh pa == .host || frameClosed s.coh pa || (findURec s.coh line).isSome
      || s.clusters.toList.any (fun c => c.ws.any (fun w => w.line == line)) || touchesPoison s.poison (memKey s.part pa) 128
      || s.coh.persist.any (fun p => p.active && p.line == line && p.gw != g) then .skip
  else if (findLine (getCl s s.cl) line).isSome then .done s
  else if s.coh.reqs.any (fun r => r.gw == g && r.line == line) || !advPays s.part v (linePath s s.cl line) then .wait
  else
    match advRoom s s.cl v line with
    | none => .skip
    | some r => .done (cohLoad r.1 s.cl v line { Way.plain .advice with bypass := !r.2, hint := pos })

/-- An action counted as dropped once, however many of its lines are skipped (R245); one of a group that has left the core
counts nowhere. -/
def countSkip (s : State) (r : AdvReq) : State :=
  if s.core.adv.skipped.contains r.act || s.core.vdid != r.vdid then s
  else (advDrops s 1).updAdv (fun a => { a with skipped := a.skipped ++ [r.act] })

/-- Actions none of whose requests is in flight any more are forgotten. -/
def forgetSkips (s : State) : State :=
  s.updAdv (fun a => { a with skipped := a.skipped.filter (fun n => a.reqs.any (fun r => r.act == n)) })

/-- A request in flight served, or dropped by R112; none while it waits. -/
def serveReq (s : State) (r : AdvReq) : Option State :=
  if 65536 ≤ r.age then some (countSkip s r)
  else
    match advLine s r.vdid r.line (some r.pos) with
    | .done s1 => some s1
    | .skip => some (countSkip s r)
    | .wait => none

/-- Requests in flight: at most 32, an a.ldidx among them; the lines of an action beyond them hold the sequencer (R113). -/
def inFlight (a : Advice) : List AdvReq := a.reqs.take (if a.ldidx.isSome then 31 else 32)

/-- An action that requests lines, which waits while 32 requests are in flight (R113). -/
def advAsks : Instr → Bool
  | .aPf _ _ _ _ | .aLdidx _ _ _ => true
  | _ => false

/-- The requests in flight that can be served are served, in the order of their issue; the others stay. -/
def advServe (s : State) : State :=
  let l := inFlight s.core.adv
  let rest := s.core.adv.reqs.drop l.length
  let s1 := l.foldl (fun t r => match serveReq t r with
    | some u => u
    | none => t.updAdv (fun a => { a with reqs := a.reqs ++ [r] })) (s.updAdv (fun a => { a with reqs := [] }))
  forgetSkips (s1.updAdv (fun a => { a with reqs := a.reqs ++ rest }))

/-- The lines of a range, by physical number. -/
def advLines (s : State) (va len : Nat) : List Nat :=
  (rangePages va len).flatMap (fun p =>
    match s.translate .load (BitVec.ofNat 64 p.1) with
    | .ok x => (List.range ((x.pa + (p.2 - p.1) - 1) / 128 + 1 - x.pa / 128)).map (fun i => x.pa / 128 + i)
    | _ => [])

/-- The lines of an action requested, one request each. -/
def advIssue (s : State) (act : Nat) (lines : List Nat) (pos : Ins) : State :=
  s.updAdv (fun a => { a with reqs := a.reqs ++ lines.map (fun l => ⟨act, l, pos, 0, s.core.vdid⟩) })

/-! ### Translations cached (R283) -/

/-- The leaf of an address as a TLB would hold it. -/
def leafEntry (s : State) (x : Xl) (va : Word) : TlbEntry :=
  let w := 2 ^ leafShift x.level
  ⟨s.core.vdid, x.level, va.toNat / w * w, x.leaf, x.leafAddr⟩

/-- The table pointers that a walk to a leaf has read, as they would be cached. -/
def ptrEntries (s : State) (x : Xl) (va : Word) : List PtrEntry :=
  (x.reads.reverse.drop 1).zipIdx.map (fun r =>
    let level := x.level + 1 + r.2
    let w := 2 ^ entryShift level
    ⟨s.core.vdid, level, va.toNat / w * w, (r.1.2.extractLsb' 8 44).toNat * 2 ^ 8⟩)

/-- An entry put into a core's TLB of 64, behind the others; the oldest makes room (R283; log 8). -/
def coreTlbPut (l : List TlbEntry) (e : TlbEntry) : List TlbEntry := l.drop (l.length - 63) ++ [e]

/-- The set of the cluster TLB in which a page or a table's range stands (log 8). -/
def tlbSet (base : Nat) : Nat := base / 2 ^ 16 % 256

/-- Room for one more entry in a set of the cluster TLB, which holds eight leaves and table pointers: the oldest leaf goes, or else
the oldest pointer (R283; log 8). -/
def clTlbRoom (c : Cluster) (base : Nat) : Cluster :=
  let ls := c.tlb.filter (fun t => tlbSet t.base == tlbSet base)
  let ps := c.ptrs.filter (fun t => tlbSet t.base == tlbSet base)
  if ls.length + ps.length < 8 then c
  else
    match ls with
    | e :: _ => { c with tlb := c.tlb.erase e }
    | [] => { c with ptrs := c.ptrs.erase (ps.headD ⟨0, 0, 0, 0⟩) }

def clTlbPut (c : Cluster) (e : TlbEntry) : Cluster := let d := clTlbRoom c e.base; { d with tlb := d.tlb ++ [e] }
def clPtrPut (c : Cluster) (e : PtrEntry) : Cluster := let d := clTlbRoom c e.base; { d with ptrs := d.ptrs ++ [e] }

/-- The translation of an address put into the cluster's TLB. -/
def fillTlb (s : State) (va : Word) : State :=
  match s.translate .any va with
  | .ok x =>
    if (tlbHit (getCl s s.cl).tlb s.core.vdid va.toNat).isSome then s
    else updCl s s.cl (fun c => clTlbPut c (leafEntry s x va))
  | _ => s

/-! ## Actions (R245 to R249) -/

/-- a.stop (R250). -/
def execAStop (s : State) : Out := .next ((advNext s).updAdv (fun a => a.stopAt 1))

/-- A range action: nothing for a length of 0; dropped whole where the core's checks fail. -/
def rangeAction (va len : Word) (cap : Nat) (k : Nat → State → State) (s : State) : Out :=
  let n := if cap < len.toNat then cap else len.toNat
  if n = 0 then .next (advNext s)
  else if !advRangeOk s va n then .next (advNext (advDrops s 1))
  else .next (advNext (k n (advWalks s va n)))

/-- a.pf (R245). An L1 data cache is visible to no program (R16) and is no state apart from its cluster cache's (R90), so `.l1`
and `.cc` fill the same. -/
def execAPf (_cc : Bool) (pos : Ins) (ha hb : HReg) (s : State) : Out :=
  let va := s.hreg ha
  rangeAction va (s.hreg hb) 65536 (fun n t =>
    let act := t.core.adv.acts + 1
    advIssue (t.updAdv (fun a => { a with acts := act })) act (advLines t va.toNat n) pos) s

/-- a.pft (R245). -/
def execAPft (ha hb : HReg) (s : State) : Out :=
  let va := s.hreg ha
  rangeAction va (s.hreg hb) 2097152 (fun n t =>
    (rangePages va.toNat n).foldl (fun u p => fillTlb u (BitVec.ofNat 64 p.1)) t) s

/-- a.ins (R246): four entries, the newest first; a length of 0 clears them. -/
def execAIns (pos : Ins) (ha hb : HReg) (s : State) : Out :=
  let va := s.hreg ha
  if s.hreg hb = 0 then .next (advNext (s.updAdv (fun a => { a with ins := [] })))
  else rangeAction va (s.hreg hb) 2097152 (fun n t =>
    t.updAdv (fun a => { a with ins := ((pos, va, n) :: a.ins).take 4 })) s

/-- a.cpri (R247): eight entries by key, the one set last first. -/
def execACpri (tile : Bool) (ha : HReg) (pri : BitVec 4) (s : State) : Out :=
  let key := if tile then s.hreg ha &&& 0x3F else s.hreg ha
  .next (advNext (s.updAdv (fun a =>
    { a with cpri := ((tile, key, pri) :: a.cpri.filter (fun e => !(e.1 == tile && e.2.1 == key))).take 8 })))

/-- a.mord (R248). -/
def execAMord (co : Bool) (codes : BitVec 8) (s : State) : Out :=
  let pend := s.core.mats.any (fun m => isPass m.ins)
  .next (advNext (s.updAdv (fun a => { a with mord := some (codes, co, pend) })))

/-- a.ldidx (R249): the read is in flight and holds the sequencer, or is dropped. -/
def execALdidx (hd ha : HReg) (w : Fin 4) (s : State) : Out :=
  let va := s.hreg ha
  let n := codeBytes w
  if !alignedTo va n || !advRangeOk s va n then .next (advNext (advMiss (s.updAdv (fun a => a.setH hd 0))))
  else .next (advNext ((advWalks s va n).updAdv (fun a => { a with ldidx := some ⟨some hd, va, n, 0, s.core.vdid⟩ })))

/-- The value of an a.ldidx written; nothing where its sequencer has ended. -/
def ldidxDone (s : State) (r : AdvRead) (v : Word) : State :=
  s.updAdv (fun a =>
    let a1 := { a with ldidx := none }
    match r.d with
    | some d => a1.setH d v
    | none => a1)

/-- An a.ldidx dropped: zero, and its counters; that of a sequencer that has ended counts while its group is on the core. -/
def ldidxDrop (s : State) (r : AdvRead) : State :=
  if r.d.isSome then advMiss (ldidxDone s r 0)
  else if s.core.vdid == r.vdid then (advMiss (ldidxDone s r 0)).updAdv (fun a => { a with miss := s.core.adv.miss })
  else ldidxDone s r 0

/-- What the a.ldidx in flight comes to now; none while it waits for its line. -/
def ldidxMove (s : State) (r : AdvRead) : Option State :=
  if 65536 ≤ r.age then some (ldidxDrop s r)
  else
    match translateAt s s.cl s.core.tlb r.vdid .load r.addr with
    | .ok x =>
      match advLine s r.vdid (lineOf x.pa) none with
      | .skip => some (ldidxDrop s r)
      | .wait => none
      | .done s1 =>
        let s2 := aliasRead s1 x.pa
        some (ldidxDone s2 r (BitVec.ofNat 64 (lineRead s2 s2.cl x.pa r.n)))
    | _ => some (ldidxDrop s r)

/-- ADVICE READ RETURN (R249). -/
def execAdviceReadReturn (s : State) : Out :=
  match s.core.adv.ldidx with
  | none => .next s
  | some r => .next ((ldidxMove s r).getD s)

/-- ADVICE REQUEST TIMEOUT (R112): the oldest request that has waited 65,536 clk is dropped and counted. -/
def execAdviceRequestTimeout (s : State) : Out :=
  let late := s.core.adv.reqs.find? (fun r => decide (65536 ≤ r.age))
  match s.core.adv.ldidx.filter (fun r => decide (65536 ≤ r.age)), late with
  | some r, _ => .next (ldidxDrop s r)
  | none, some r => .next (forgetSkips ((countSkip s r).updAdv (fun a => { a with reqs := a.reqs.erase r })))
  | none, none => .next s

/-! ## Control and arithmetic (R250) -/

/-- a.await: the sequencer stands at it until a cairn is taken (R116). -/
def execAAwait (c : BitVec 16) (n : BitVec 8) (s : State) : Out :=
  .next (s.updAdv (fun a => { a with st := .awaiting, awaitC := c, awaitS := n }))

def advGoto (s : State) (t : BitVec 11) : State := s.updAdv (fun a => { a with pc := t ++ (0 : BitVec 2) })

def execAJmp (target : BitVec 11) (s : State) : Out := .next (advGoto s target)

def aCondHolds (c : ACond) (x y : Word) : Bool :=
  match c with
  | .eq => x == y
  | .ne => x != y
  | .ltn => x.ult y
  | .gen => !x.ult y

def execAB (c : ACond) (ha hb : HReg) (target : BitVec 11) (s : State) : Out :=
  .next (if aCondHolds c (s.hreg ha) (s.hreg hb) then advGoto s target else advNext s)

/-- An h register written and the next instruction. -/
def advWrite (s : State) (hd : HReg) (v : Word) : Out := .next (advNext (s.updAdv (fun a => a.setH hd v)))

def execALi (hd : HReg) (imm : BitVec 16) (p : Fin 4) (s : State) : Out :=
  let m : Word := (0xFFFF : Word) <<< (16 * p.val)
  advWrite s hd ((s.hreg hd &&& ~~~m) ||| (imm.zeroExtend 64 <<< (16 * p.val)))

def execAAdd (hd ha hb : HReg) (imm : BitVec 16) (s : State) : Out :=
  advWrite s hd (s.hreg ha + s.hreg hb + imm.signExtend 64)

def execAMul (hd ha hb : HReg) (s : State) : Out := advWrite s hd (s.hreg ha * s.hreg hb)

def execAAnd (hd ha hb : HReg) (s : State) : Out := advWrite s hd (s.hreg ha &&& s.hreg hb)

def execAShr (hd ha : HReg) (n : BitVec 6) (s : State) : Out := advWrite s hd (s.hreg ha >>> n.toNat)

def execARdstrip (hd : HReg) (s : State) : Out := advWrite s hd s.core.adv.snapshot

/-- NO ADVICE INSTRUCTION (R146). -/
def execNoAdviceInstruction (s : State) : Out := .next (s.updAdv (fun a => a.stopAt 2))

/-! ## What the sequencer does next -/

inductive AdvMove where
  | none
  | state (s : State)
  | run (i : Instr)
  deriving DecidableEq, Repr

/-- Whether the sequencer issues nothing: while its group is stopped under FREEZE.adv, a step of a core included (R310, R311). -/
def advFrozen (c : Core) : Bool := c.dbg.st != .running && c.freeze.getLsbD 1

/-- The next move of the active core's sequencer: requests in flight that can be served, the value of an a.ldidx, the load, an
overflow, a cairn, or the instruction at its pc. -/
def advMove (s : State) : AdvMove :=
  let a := s.core.adv
  if (inFlight a).any (fun r => (serveReq s r).isSome) then .state (advServe s)
  else if a.ldidx.isSome then (if (a.ldidx.bind (ldidxMove s)).isSome then .run .adviceReadReturn else .none)
  else if s.core.run == .off || advFrozen s.core || decide (32 < a.reqs.length) then .none
  else
    match a.st with
    | .off | .stopped => .none
    | .loading => if readRegion 256 (abase a) s [] == .stall then .none else .run .adviceLoadComplete
    | .running =>
      if a.overflow then .state (takeOverflow s)
      else
        match decodeAdvice (BitVec.ofNat 32 (bufField a.buffer a.pc.toNat 4)) with
        | some i => if advAsks i && decide (32 ≤ a.reqs.length) then .none else .run i
        | none => .run .noAdviceInstruction
    | .awaiting | .seeking =>
      if a.overflow then .state (takeOverflow s) else if a.fifo.isEmpty then .none else .state (takeCairn s)

/-! ## Order of copies and of the matrix unit's operations (R219, R247) -/

/-- The priority of a copy: the entry set most recently that matches it, else 8. -/
def copyPri (c : Core) (x : CopyOp) : Nat :=
  let hit (e : Bool × Word × BitVec 4) : Bool :=
    if e.1 then (x.tile.map (fun t => e.2.1.toNat == t.val)).getD false else x.ctr == some e.2.1
  ((c.adv.cpri.find? hit).map (fun e => e.2.2.toNat)).getD 8

/-- The copy that the engine serves next: the highest priority, then the oldest, among those that can move. -/
def nextCopy (c : Core) : Option Nat :=
  ((c.copies.zipIdx.filter (fun p => p.1.st == .moving && idxReady p.1)).foldl (fun (b : Option (Nat × Nat)) p =>
    let k := copyPri c p.1
    match b with
    | none => some (k, p.2)
    | some q => if q.1 < k then some (k, p.2) else some q) none).map (·.2)

/-- The operation of the matrix unit that is done next: the oldest that may run and, where it is a pass, has done its array work
(R219). -/
def nextMat (c : Core) : Option Nat :=
  (List.range c.mats.length).find? (fun i => (matReady c i).any (fun m => !passOpen m))

end Sys2Proof.Machine
end

