-- ==== Sys2Proof/Machine/CohEvents.lean ====
section
/-! DEFINITION. The events of coherence: the peloton network of a die (R92, R377), tokens between dies (R93 to R95, R378), U
requests, grants and collects (R97 to R100, R379), W lines (R102), and accesses from outside (R104, R291). -/

namespace Sys2Proof.Machine

open Sys2Proof

/-! ## Helpers -/

/-- The home of a line (R89): a die, or 4 for the system die. -/
def homeOf (s : State) (line : Nat) : Nat :=
  let k := memKey s.part (line * 128)
  if vaultBase ≤ k ∧ k < 0x6000000000 then (k - vaultBase) / 2 ^ 30 / 32 else 4

/-- A machine check of the home or of the interconnect, logged without a killed group. -/
def homeCheck (s : State) (severity code unit index : Nat) (line : Nat) (mask : BitVec 64) : State :=
  logRecord s (mcRecord s severity code unit index (BitVec.ofNat 64 (line * 128)) mask)

/-! ## The peloton network (R92) -/

/-- A line's request counted as delivered: its refusals are forgotten (R377). -/
def clearRefusals (s : State) (cl line : Nat) : State :=
  { s with coh := { s.coh with refusals := s.coh.refusals.filter (fun r => !(r.1 == cl && r.2.1 == line)) } }

/-- A request put behind those of its gateway for the line, in peloton order; the first is the one that the gateway has sent (R92,
R94). A cluster asks once. -/
def addTokReq (s : State) (g : Fin 5) (cl : Option (Fin 128)) (v : BitVec 6) (line : Nat) (write : Bool)
    (work : Work) : State :=
  if s.coh.reqs.any (fun r => r.gw == g && r.line == line && r.cl == cl && r.write == write) then s
  else { s with coh := { s.coh with reqs := s.coh.reqs ++ [⟨g, cl, v, line, write, 0, 0, work⟩] } }

def dieGw (c : Fin 128) : Fin 5 := (clusterDie c).castSucc

/-- PELOTON DELIVERY: a cluster's request for a line applied by every agent of its die. While a request of the die for the line is
pending it waits behind it; where the die holds enough tokens the cluster gets its state; else the gateway asks the other dies.
A line in U goes to its home, which merges first. The active core's virtual device stands for the requester's. -/
def execPelotonDelivery (cl line : Nat) (k : SnoopKind) (s : State) : Out :=
  if h : cl < 128 then
    let c : Fin 128 := ⟨cl, h⟩
    let s0 := clearRefusals s cl line
    let write := k == .write
    let st := pageState s.coh (line * 128)
    if st == .host || frameClosed s.coh (line * 128) || (write && st == .readOnly) then .next s0
    else
      let g := dieGw c
      let v := s.core.vdid
      let work := groupWork s.part s.core.cgid
      let ask := addTokReq s0 g (some c) v line write work
      if s0.coh.reqs.any (fun r => r.gw == g && r.line == line) || persists s0 g line then .next ask
      else
        let s1 := mergeLine (flushW s0 c line) line (some v)
        if !write && (findLine (getCl s1 c) line).isSome then .next s1
        else if tokensDo s1 g line write then .next (performLine s1 (some c) v line write work)
        else .next { s1 with coh := { s1.coh with reqs := ask.coh.reqs } }
  else .next s

/-! ## Tokens (R94, R95) -/

/-- Whether a persistent entry of another die is active for a line. -/
def barredBy (s : State) (gw : Fin 5) (line : Nat) : Bool :=
  s.coh.persist.any (fun p => p.active && p.line == line && p.gw != gw)

/-- The answers to a transient request: tokens moved by the rules of R94; none while a persistent entry is active or the frame
is closed (R95, R106). A merge is the requester's (R267). -/
def answerTransient (s : State) (gw : Fin 5) (line : Nat) (write : Bool) : State :=
  if barredBy s gw line || frameClosed s.coh (line * 128) then s
  else
    let who := (s.coh.reqs.find? (fun r => r.gw == gw && r.line == line)).map (·.vdid)
    let s1 := mergeLine s line (who.or (some s.core.vdid))
    let t := findTok s1.coh line
    if write then
      let s2 := (List.range 4).foldl (fun u g => if g == gw.val then u else dieDrop u g line none) s1
      { s2 with coh := setTok s2.coh (allTokens line gw.val) }
    else
      let s2 := (List.range 4).foldl (fun u g => if g == gw.val then u else dieShare u g line) s1
      let t1 := readToken t gw.val
      -- a die that has sent its last token keeps no copy
      let s3 := (List.range 4).foldl (fun u g => if tokAt t1 g == 0 then dieDrop u g line none else u) s2
      { s3 with coh := setTok s3.coh t1 }

/-- TRANSIENT REQUEST (R94): of a gateway, for its oldest waiting request for the line or for itself. The home never grants every
token of a frame shared read-only (R104). -/
def execTransientRequest (gw : Fin 5) (line : Nat) (write : Bool) (s : State) : Out :=
  if write && pageState s.coh (line * 128) == .readOnly then .next s
  else
    let s1 := if s.coh.reqs.any (fun r => r.gw == gw && r.line == line) then s
      else addTokReq s gw none s.core.vdid line write .coherence
    .next (answerTransient s1 gw line write)

/-- TOKEN RESPONSE: the attempt fails for want of tokens, or the request's access is performed and those behind it are served
(R92, R94). -/
def execTokenResponse (gw : Fin 5) (line : Nat) (s : State) : Out :=
  match s.coh.reqs.find? (fun r => r.gw == gw && r.line == line) with
  | none => .next s
  | some r =>
    if persists s gw line || frameClosed s.coh (line * 128) then .next s
    else if tokensDo s gw line r.write then .next (serveWaiting gw line s.coh.reqs.length s)
    else .next { s with coh := { s.coh with
      reqs := s.coh.reqs.map (fun x => if x == r then { x with fails := x.fails + 1 } else x) } }

/-- PERSISTENT ESCALATION (R95): after three failed attempts or 2,048 clk, where the die's entry at the home is free. -/
def execPersistentEscalation (gw : Fin 5) (line : Nat) (s : State) : Out :=
  match s.coh.reqs.find? (fun r => r.gw == gw && r.line == line) with
  | none => .next s
  | some r =>
    let home : Fin 5 := Fin.ofNat 5 (homeOf s line)
    if (r.fails < 3 && r.edges < 2048) || s.coh.persist.any (fun p => p.home == home && p.gw == gw) then .next s
    else .next { s with coh := { s.coh with
      reqs := s.coh.reqs.erase r, persist := s.coh.persist ++ [⟨home, gw, r.cl, r.vdid, line, r.write, false, 0, r.work⟩] } }

/-- The occupied entry that a home serves next, of a frame that is not closed: ascending die index after the last one served, wrapping from 4 to 0. -/
def nextPersist (s : State) (home : Fin 5) : Option Persist :=
  let l := s.coh.persist.filter (fun p => p.home == home && !p.active && !frameClosed s.coh (p.line * 128))
  ((List.range 5).filterMap (fun i => l.find? (fun p => p.gw.val == (s.coh.lastServed[home] + 1 + i) % 5))).head?

/-- Every token of a line sent to a gateway; of a frame shared read-only the home keeps one (R95, R104). -/
def sendTokens (s : State) (g : Fin 5) (line : Nat) : State :=
  let t := allTokens line g.val
  let t1 := if pageState s.coh (line * 128) == .readOnly then { setTokAt t g.val 15 with home := 1 } else t
  let s1 := (List.range 4).foldl (fun u d => if d == g.val then u else dieDrop u d line none) s
  { s1 with coh := setTok s1.coh t1 }

/-- PERSISTENT ACTIVATE: the active entry completes, then the home activates the next one, and every gateway sends its tokens to
the requester (R95). -/
def execPersistentActivate (home : Fin 5) (s : State) : Out :=
  let s1 := match s.coh.persist.find? (fun p => p.home == home && p.active) with
    | some p => finishPersist s p
    | none => s
  if s1.coh.persist.any (fun p => p.home == home && p.active) then .next s1
  else
    match nextPersist s1 home with
    | none => .next s1
    | some p =>
      let s2 := sendTokens (mergeLine s1 p.line (some p.vdid)) p.gw p.line
      .next { s2 with coh := { s2.coh with
        persist := s2.coh.persist.map (fun q => if q == p then { q with active := true } else q) } }

/-- PERSISTENT TIMEOUT (R378): a recount recalls every token to the home and makes up those that are missing; a lost owner
token loses the line's dirty data. -/
def execPersistentTimeout (line : Nat) (s : State) : Out :=
  if !s.coh.persist.any (fun p => p.line == line && decide (200000 ≤ p.ns)) then .next s
  else
    let t := findTok s.coh line
    let s1 := (List.range 4).foldl (fun u g => dieDrop u g line none) s
    let s2 := { s1 with coh := { setTok s1.coh (freshTok line) with
      persist := s1.coh.persist.map (fun p => if p.line == line then { p with ns := 0, active := false } else p) } }
    if tokTotal t == 16 then .next s2
    else
      let lost := tokAt t t.owner == 0
      .next (homeCheck (if lost then poisonLine s2 line else s2) (if lost then 2 else 1) 2 11 (homeOf s line) line 0)

/-! ## The update-only state (R97 to R100) -/

/-- Element i of a list moved ahead; those of its own cluster for its line keep their order (R100). -/
def moveAhead (l : List UReq) (i : Nat) : List UReq :=
  match l[i]? with
  | some r =>
    let before := l.take i
    let own := (before.reverse.takeWhile (fun x => !(x.slot == r.slot && x.line == r.line))).length
    before.take (i - own) ++ r :: (before.drop (i - own) ++ l.drop (i + 1))
  | none => l

/-- An outstanding U request, or a grant on its way back, overtakes those of other clusters before it: the order of their arrival is
open (R100; log 11). -/
def overtake (s : State) (grant : Bool) (i : Nat) : State :=
  { s with coh := if grant then { s.coh with ugrants := moveAhead s.coh.ugrants i } else { s.coh with ureqs := moveAhead s.coh.ureqs i } }

/-- The first update of a line that waits in a cluster is requested, where nothing for its tag is on its way (R97, R100). -/
def askAgain (s : State) (slot : Fin 128) (line : Nat) : State :=
  match (getCl s slot).uwaits.find? (fun x => x.line == line) with
  | none => s
  | some x =>
    let out (r : UReq) : Bool := r.slot == slot.val && r.line == line && r.tag == x.tag
    if s.coh.ureqs.any out || s.coh.ugrants.any out then s
    else { s with coh := { s.coh with ureqs := s.coh.ureqs ++ [⟨slot.val, line, x.tag, x.vdid⟩] } }

/-- U REQUEST: the first outstanding request reaches its home; it waits there while a persistent request for the line is active
(R95). They stand in order of issue until one overtakes another. -/
def execURequest (s : State) : Out :=
  match s.coh.ureqs with
  | [] => .next s
  | r :: t =>
    if h : r.slot < 128 then
      if s.coh.persist.any (fun p => p.active && p.line == r.line) then .next s
      else
        let s1 := { s with coh := { s.coh with ureqs := t } }
        let s2 := grantRec s1 ⟨r.slot, h⟩ r.line r.tag r.vdid
        .next { s2 with coh := { s2.coh with ugrants := s2.coh.ugrants ++ [r] } }
    else .next { s with coh := { s.coh with ureqs := t } }

/-- U GRANT: the first grant reaches its cluster; one that a later merge or switch has overtaken is asked for again. -/
def execUGrant (s : State) : Out :=
  match s.coh.ugrants with
  | [] => .next s
  | r :: t =>
    let s1 := { s with coh := { s.coh with ugrants := t } }
    if h : r.slot < 128 then
      let stands := match findURec s1.coh r.line with
        | some x => x.tag == r.tag && x.presence.getLsbD r.slot && x.merging.isNone
        | none => false
      .next (askAgain (if stands then arriveGrant s1 ⟨r.slot, h⟩ r.line r.tag r.vdid else s1) ⟨r.slot, h⟩ r.line)
    else .next s1

/-- A record replaced. -/
def setURec (s : State) (r : URec) : State :=
  { s with coh := { s.coh with urecs := s.coh.urecs.map (fun x => if x.line == r.line then r else x) } }

/-- MERGE COLLECT: the line merges; a slot in presence answers with its partial and drops the line (R98). The active core's virtual
device stands for the one whose access began the merge (R267). -/
def execMergeCollect (slot line : Nat) (s : State) : Out :=
  if h : slot < 128 then
    match findURec s.coh line with
    | none => .next s
    | some r =>
      if !r.presence.getLsbD slot then .next s
      else
        let c : Fin 128 := ⟨slot, h⟩
        let mine := ((getCl s c).us.find? (fun u => u.line == line)).map (fun u => (slot, u))
        let s1 := updCl s c (fun x => { x with us := x.us.filter (fun u => u.line != line) })
        .next (setURec s1 { r with presence := r.presence &&& ~~~(BitVec.twoPow 128 slot)
                                   merging := some ((r.merging.getD []) ++ mine.toList)
                                   beginner := r.beginner.or (some s.core.vdid) })
  else .next s

/-- COLLECT ANSWER: with the last partial the tree and the memory step complete the merge (R98, R99). -/
def execCollectAnswer (slot line : Nat) (s : State) : Out :=
  match findURec s.coh line with
  | none => .next s
  | some r =>
    if ((r.merging.getD []).any (fun p => p.1 == slot)) && r.presence == 0 then .next (mergeWith s r false none) else .next s

/-- MERGE COLLECT TIMEOUT (R379): the merge completes without the slot, the whole line poisoned; its partial, which would
arrive too late, is discarded. The same at once for a slot whose answer is under way: it arrives with a failed check (log 10). -/
def execMergeCollectTimeout (slot line : Nat) (s : State) : Out :=
  if h : slot < 128 then
    match findURec s.coh line with
    | none => .next s
    | some r =>
      let failed := !r.presence.getLsbD slot && (r.merging.getD []).any (fun p => p.1 == slot)
      if r.merging.isNone || !(failed || (r.presence.getLsbD slot && decide (100000 ≤ r.ns))) then .next s
      else
        let s1 := updCl s ⟨slot, h⟩ (fun x => { x with us := x.us.filter (fun u => u.line != line) })
        .next (homeCheck (mergeWith s1 r true none) 2 3 11 (homeOf s line) line 0)
  else .next s

/-! ## W lines (R102) -/

/-- W LINE TIMEOUT: a W line is written home 10 µs after the store that allocated it. -/
def execWLineTimeout (cl line : Nat) (s : State) : Out :=
  if h : cl < 128 then
    match findWLine (getCl s ⟨cl, h⟩) line with
    | some w => if 10000 ≤ w.age then .next (flushW s ⟨cl, h⟩ line) else .next s
    | none => .next s
  else .next s

/-! ## Accesses from outside (R104, R291) -/

/-- An access from outside: it stalls while its frame is closed, and proceeds at the pass (R104, R106). -/
def outsideAccess (pa : Word) (write : Option (List Byte)) (n : Nat) (s : State) : State :=
  if window s.part pa.toNat == .absent then s
  else if frameClosed s.coh pa.toNat then { s with coh := { s.coh with outside := s.coh.outside ++ [⟨pa, write, n⟩] } }
  else serveOutside s pa write n

/-- HOST ACCESS (R104): a read answers the sector of its address; longer ones are turns (log 38). -/
def execHostAccess (_party : BitVec 4) (pa : Word) (write : Option (List Byte)) (s : State) : Out :=
  .next (outsideAccess (if write.isNone then pa &&& ~~~0x1F else pa) write 32 s)

/-- ROOT PORT INBOUND REQUEST (R291): an address outside the granules of the port's partition gets an Unsupported Request
completion; else it is served as the gateway serves any. -/
def execRootPortInboundRequest (port : Fin 4) (pa : Word) (write : Option (List Byte)) (s : State) : Out :=
  if !paOk s.part (s.part.rootParts[port]).toNat pa.toNat then .next (answer s .unsupportedRequest)
  else .next (outsideAccess (if write.isNone then pa &&& ~~~0x1F else pa) write 32 s)

/-- A read of n bytes from outside (R291): by the host, or by a device behind a root port. -/
def outsideRead (port : Option (Fin 4)) (pa : Word) (n : Nat) (s : State) : State :=
  match port with
  | some p => if !paOk s.part (s.part.rootParts[p]).toNat pa.toNat then answer s .unsupportedRequest else outsideAccess pa none n s
  | none => outsideAccess pa none n s

end Sys2Proof.Machine
end

