-- ==== Sys2Proof/Machine/Errors.lean ====
section
/-! DEFINITION. Errors of memories, caches, registers and links (R368 to R383), timing errors and lane retirement (R391 to
R393), machine-check kills (R381), the watchdogs (R76, R389), the end of a killed group (R345) and a supervisor that does
not return (R348). -/

namespace Sys2Proof.Machine

open Sys2Proof

/-! ## Machine-check kills (R381) -/

/-- A record of kind machine-check for a group, from a core of it: its next AP instruction and strip, and the line where one is
known (R381). -/
def checkRecord (s : State) (c : Core) (code : Nat) (addr : Option Word) : State :=
  let f : FaultInfo := { kind := kMachineCheck, pc := c.pc, strip := c.stripBase, sub := BitVec.ofNat 16 code, addr := addr }
  (writeRecord s c.vdid (recordBytes c.cgid c.index.val f (recordFlags f false true) s.part.tstamp)).1

/-- A group that is killed already. -/
def isKilled (p : Part) (cgid : BitVec 32) : Bool := ((findGroup p cgid).map (·.killed)).getD false

/-- The groups that hold a core of those `p` picks, each with its core of lowest index there. -/
def groupsOn (s : State) (p : Core → Bool) : List Core :=
  let l := (s.cores.filter (fun c => p c && c.run != .off && !isKilled s.part c.cgid)).mergeSort (fun x y => decide (x.index.val ≤ y.index.val))
  l.foldl (fun r c => if r.any (fun x => x.cgid == c.cgid) then r else r ++ [c]) []

/-- A machine check that kills groups: the record of each, each kill, and the log with their virtual devices. -/
def machineCheck (s : State) (l : List Core) (severity code unit index : Nat) (addr : Option Word) : State :=
  let s1 := l.foldl (fun t c => checkRecord t c code addr) s
  let s2 := l.foldl (fun t c => killGroup t c.cgid) s1
  let mask : BitVec 64 := l.foldl (fun m c => m ||| BitVec.twoPow 64 c.vdid.toNat) 0
  logRecord s2 (mcRecord s2 severity code unit index (addr.getD 0) mask)

/-- A group that holds no core, as its record names one: its saved core of lowest index, or, before its first start and between its
waves, the lowest core of its mask, at the entry of the kernel (R381; log 69). -/
def absentCore (g : Group) : Core :=
  match g.saved.mergeSort (fun x y => decide (x.index.val ≤ y.index.val)) with
  | c :: _ => c
  | [] => { Core.reset (Fin.ofNat 1024 ((maskCores g.mask).headD 0)) with cgid := g.cgid, vdid := g.vdid, pc := g.lr.sentry }

/-- Every group that is not killed, by a core of each. -/
def allGroups (s : State) : List Core :=
  let l := groupsOn s (fun _ => true)
  l ++ (s.part.groups.filter (fun g => !g.killed && !l.any (fun c => c.cgid == g.cgid))).map absentCore

/-- A fatal machine check: every group killed, the compute dies held, and the host endpoint's report (R377). -/
def fatal (s : State) (unit index : Nat) : State :=
  let s1 := machineCheck s (allGroups s) 3 7 unit index none
  { s1 with part := { s1.part with fatalHeld := true, answers := s1.part.answers ++ [.aer true index] } }

/-! ## Corrected errors (R373) -/

/-- The count of a unit. -/
def correctedOf (p : Part) (u : ScrubUnit) : CorrectedCount := (p.corrected.find? (fun x => x.unit == u)).getD ⟨u, 0, []⟩

/-- The count of a unit replaced. -/
def setCorrected (s : State) (x : CorrectedCount) : State :=
  { s with part := { s.part with corrected := s.part.corrected.filter (fun y => y.unit != x.unit) ++ [x] } }

/-- A corrected error of a unit counted; where 256 stand within 1 s, one record is logged, and the next 256 are counted anew. -/
def countCorrected (s : State) (u : ScrubUnit) : State :=
  let now := s.part.tstamp.toNat
  let old := correctedOf s.part u
  let times := now :: old.times.filter (fun t => decide (now - t ≤ 1000000000))
  if 256 ≤ times.length then
    let s1 := setCorrected s ⟨u, old.count + 1, []⟩
    logRecord s1 (mcRecord s1 0 0 u.kind u.index 0 0)
  else setCorrected s ⟨u, old.count + 1, times⟩

/-- SCRUB TICK: a sector whose single error is corrected and written back; nothing reaches a program. -/
def execScrubTick (u : ScrubUnit) (s : State) : Out := .next (countCorrected s u)

/-! ## Cache errors (R374, R375) -/

def sectorMask (l : List (Fin 4)) : BitVec 4 := l.foldl (fun m q => m ||| BitVec.twoPow 4 q.val) 0

def poisonSectors (s : State) (line : Nat) (l : List (Fin 4)) : State :=
  l.foldl (fun t q => setPoison t (line * 128 + 32 * q.val)) s

/-- CACHE DATA ERROR, by the line's state (R374). -/
def execCacheDataError (cl line : Nat) (sectors : List (Fin 4)) (memoryBad : Bool) (s : State) : Out :=
  if h : cl < 128 then
    let c : Fin 128 := ⟨cl, h⟩
    let x := getCl s c
    match findLine x line with
    | some l =>
      let s1 := dropLine s c line
      if l.st == .m then .next (poisonSectors s1 line sectors)
      else .next (if memoryBad then poisonSectors s1 line sectors else countCorrected s1 ⟨3, cl⟩)
    | none =>
      if (findWLine x line).isSome then
        .next (flushW (setCl s c { x with ws := x.ws.map (fun w => if w.line == line then
          { w with poison := w.poison ||| sectorMask sectors, clean := w.clean &&& ~~~(sectorMask sectors) } else w) }) c line)
      else
        .next (setCl s c { x with us := x.us.map (fun u => if u.line == line then
          { u with poison := u.poison ||| sectorMask sectors } else u) })
  else .next s

/-- Steps 2 to 4 of the recovery of a lost line (R375): the other lines of the cache go home, and the lost one is poisoned
there; in U its merge completes with every element poisoned. -/
def recoverLine (s : State) (c : Fin 128) (line : Nat) : State :=
  let x := getCl s c
  let isU := x.us.any (fun u => u.line == line)
  let owned := (findLine x line).isSome && (findTok s.coh line).owner == (clusterDie c).val && !otherHolds s c line
  let isW := (findWLine x line).isSome
  let s1 := updCl s c (fun x => { x with lines := x.lines.filter (fun l => l.line != line), us := x.us.filter (fun u => u.line != line)
                                         ws := x.ws.filter (fun w => w.line != line) })
  let s2 := ((getCl s1 c).ws.map (·.line)).foldl (fun t l => flushW t c l) s1
  let s3 := ((getCl s2 c).us.map (·.line)).foldl (fun t l => mergeLine t l) s2
  let s4 := ((getCl s3 c).lines.map (·.line)).foldl (fun t l => dropLine t c l) s3
  let s5 := match findURec s4.coh line with
    | some r => if isU then mergeWith s4 r true none else s4
    | none => s4
  let s6 := if owned || isW then poisonLine s5 line else s5
  if owned then { s6 with coh := setTok s6.coh (freshTok line) } else s6

/-- CACHE TAG PARITY ERROR (R375). -/
def execCacheTagParityError (cl line : Nat) (stateGood : Bool) (s : State) : Out :=
  if h : cl < 128 then
    let c : Fin 128 := ⟨cl, h⟩
    let x := getCl s c
    let dirty := x.us.any (fun u => u.line == line) || (findWLine x line).isSome || ((findLine x line).map (·.st)) == some .m
    let present := dirty || (findLine x line).isSome
    if !present then .next s
    else if stateGood && !dirty then .next (setCl s c { x with lines := x.lines.filter (fun l => l.line != line) })
    else
      let groups := groupsOn s (fun k => k.index.val / 8 == cl)
      let s1 := machineCheck s groups 2 1 3 cl (some (BitVec.ofNat 64 (line * 128)))
      .next (recoverLine s1 c line)
  else .next s

/-! ## Core state (R376) -/

/-- The operand codes of the sources that an instruction of the EP reads (R137). -/
def sourceCodes (i : Instr) : List Nat := match layout i with
  | some r => [r.base.a.toNat, r.base.b.toNat, r.x.c.toNat]
  | none => []

/-- The queued instruction that reads a register or a queue entry: what stands first in the EP's order, or heads the vector memory
queue, where it names it; none where the AP's own instruction is the reader (R376; log 69). -/
def queuedReader (c : Core) (site : ParitySite) : Option Capture :=
  let code : Option Nat := match site with
    | .reg n => some n
    | .queue j => some (32 + j.val)
    | _ => none
  let ep := match c.viq with
    | ⟨.ins i, k⟩ :: _ => if code.any (fun n => (sourceCodes i).contains n) then some k else none
    | _ => none
  let vm := match c.vmq with
    | o :: _ => if code.any (fun n => (vmDesc o.ins).any (fun d => d.reads.any (fun r => r.val == n) || (d.msk != 0 && d.msk.val == n))) then some o.cap
      else none
    | [] => none
  ep.or vm

def siteNumber : ParitySite → Nat
  | .reg n => n
  | .queue j => 64 + 32 + j.val
  | .tileEntry t => 128 + t.val
  | .acc z => z.val
  | .bReg b => if b then 1 else 0

/-- REGISTER PARITY ERROR: the reading instruction faults, of the AP or of a queue; an accumulator's reader faults at the next AP boundary; a B
register is loaded again; a word read for a save is saved poisoned. -/
def execRegisterParityError (site : ParitySite) (s : State) : Out :=
  match site with
  | .bReg b =>
    let j : Fin 2 := if b then 1 else 0
    .next (updCl s s.cl (fun c => { c with breg := c.breg.set j ((c.breg[j]).map (fun x => { x with loaded := false })) }))
  | .acc z =>
    match s.core.mats.find? (fun m => matZ m.ins == some z && m.st == .moving) with
    | some m => .next (poisonMat s m 0)
    | none => .next s
  | _ =>
    if s.core.run == .yielded then .next (s.updCore (fun c => { c with saveBad := site :: c.saveBad }))
    else if s.core.run != .running then .next s
    else
      let el := some (BitVec.ofNat 32 (siteNumber site))
      let s1 := s.updCore (fun c => { c with saveBad := c.saveBad.filter (fun x => x != site) })
      .next (match queuedReader s.core site with
        | some k => epFault s1 k kData el 0
        | none => takeFault s1 { apFault s kData with element := el })

/-! ## Links (R377) -/

/-- Rounds in flight of every collective that a rank of a virtual device without a live port has joined, as aborts to come. -/
def strandedRounds (s : State) : List (Nat × Nat) :=
  let dead (v : BitVec 6) : Bool := match findVd s.part v with
    | some d => d.fports &&& ~~~s.part.portsDown == 0
    | none => false
  ((s.cores.filter (fun c => dead c.vdid)).flatMap (fun c => (List.finRange 8).flatMap (fun j => match c.colls[j] with
    | none => []
    | some x =>
      let sent := (s.part.contribs.filter (fun k => k.id == x.id)).map (fun k => (k.id.toNat, k.round))
      let own := c.mats.filterMap (fun m => match m.ins with
        | .mdrainf _ slot _ => if slot = j then some (x.id.toNat, m.round) else none
        | _ => none)
      sent ++ own))).eraseDups

/-- A Crazan port goes down (R377). -/
def portDown (s : State) (i : Nat) : State :=
  let s1 := { s with part := { s.part with portsDown := s.part.portsDown ||| BitVec.twoPow 16 i } }
  let l := strandedRounds s1
  let s2 := logRecord s1 (mcRecord s1 (if l.isEmpty then 1 else 2) 5 10 i 0 0)
  { s2 with agenda := s2.agenda ++ l.map (fun r => Turn.event (.collectiveAbort r.1 r.2)) }

def dropRetrain (s : State) (k : LinkKind) (i : Nat) : State :=
  { s with part := { s.part with retrains := s.part.retrains.filter (fun r => !(r.1 == k && r.2.1 == i)) } }

/-- LINK RETRY EXHAUSTED (R377). PCIe and CXL report through AER; the poisoned data of a failed CXL read comes with its own turn. -/
def execLinkRetryExhausted (k : LinkKind) (i : Nat) (s : State) : Out :=
  match k with
  | .mesh => .next (fatal s 7 i)
  | .pcie => .next { s with part := { s.part with answers := s.part.answers ++ [.aer false i] } }
  | _ => .next (let t := dropRetrain s k i
      { t with part := { t.part with retrains := t.part.retrains ++ [(k, i, 0)] } })

/-- RETRAIN COMPLETE: traffic again; or, when training fails, fatal between dies, and up to three attempts at a Crazan
port, which then is down (R377). -/
def execRetrainComplete (k : LinkKind) (i : Nat) (ok : Bool) (s : State) : Out :=
  match s.part.retrains.find? (fun r => r.1 == k && r.2.1 == i) with
  | none => .next s
  | some r =>
    let s1 := dropRetrain s k i
    if ok then .next s1
    else
      match k with
      | .dieToDie => .next (fatal s1 9 i)
      | .crazan =>
        if r.2.2 + 1 < 3 then .next { s1 with part := { s1.part with retrains := s1.part.retrains ++ [(k, i, r.2.2 + 1)] } }
        else .next (portDown s1 i)
      | _ => .next s1

/-- PELOTON REFUSAL: the request is entered again; the ninth refusal of one is fatal (R377). -/
def execPelotonRefusal (cl line : Nat) (s : State) : Out :=
  let n := ((s.coh.refusals.find? (fun r => r.1 == cl && r.2.1 == line)).map (·.2.2)).getD 0 + 1
  let s1 := clearRefusals s cl line
  if 8 < n then .next (fatal s1 8 (cl / 32))
  else .next { s1 with coh := { s1.coh with refusals := s1.coh.refusals ++ [(cl, line, n)] } }

/-! ## Sectors that fail (R292, R368, R370) -/

/-- A cluster that holds a line readable, which then is what the next read is served from. -/
def heldReadable (s : State) (line : Nat) : Bool := s.clusters.toList.any (fun c => c.lines.any (fun l => l.line == line))

/-- The FIFO bank that a key of local space lies in. -/
def fifoAt (s : State) (key : Nat) : Option (Fin 128 × Fin 32) :=
  if key < scratchKey 0 0 then none
  else
    let cl : Fin 128 := Fin.ofNat 128 (key / 2 ^ 24)
    let b := key % 2 ^ 24 / 0x20000
    if decide (b < 32) && bankMode (getCl s cl) b == 2 then some (cl, Fin.ofNat 32 b) else none

/-- An error beyond correction in a sector, by its key: of DRAM or CXL memory, found as memory is read, which it is not while a
cluster holds the line; of a core store or a cluster's SRAM, in FIFO mode of the four entries there, counted from the head (log 69). -/
def sectorBad (isLocal : Bool) (key : Nat) (s : State) : State :=
  if isLocal then
    match fifoAt s key with
    | some (cl, b) => updCl s cl (fun c => { c with fifoBad := c.fifoBad ++ (((List.range 4).map (fun j => (b, key % 0x20000 / 32 * 4 + j))).filter
        (fun q => decide (q.2 < (c.fifo[b]).length) && !c.fifoBad.contains q)) })
    | none => { s with locPoison := natInsert s.locPoison (key / 32) }
  else
    match window s.part key with
    | .absent | .host => s
    | _ => if heldReadable s (lineOf key) then s else setPoison s key

/-- The active core's advice buffer is loaded again (R109, R368); its sequencer stays where it is, unless the load fails (log 69). -/
def adviceParity (s : State) : State :=
  let fail : State := s.updAdv (fun a => { a with st := .stopped, cause := 3, barred := true, buffer := [] })
  if s.core.adv.buffer.isEmpty then s
  else
    match readRegion 256 (abase s.core.adv) s [] with
    | .stall => s
    | .fail => fail
    | .ok s1 l => if tableOk { s1.core.adv with buffer := l } then s1.updAdv (fun a => { a with buffer := l }) else fail

/-! ### The firmware log as firmware reads it (R382) -/

/-- The 64 bytes of a record. -/
def logBytes (r : LogRec) : List Byte :=
  natBytes 1 r.severity.toNat ++ natBytes 1 r.code.toNat ++ natBytes 1 r.unit.toNat ++ [0] ++ natBytes 4 r.index.toNat
    ++ natBytes 8 r.addr.toNat ++ natBytes 8 r.syndrome.toNat ++ natBytes 4 r.count.toNat ++ natBytes 4 0
    ++ natBytes 8 r.vdmask.toNat ++ natBytes 16 0 ++ natBytes 8 r.time.toNat

/-- A record read by its place, oldest first, or the lost count. -/
def logRead (i : Option Nat) (s : State) : State :=
  answer s (.bytes (match i with
    | none => natBytes 8 s.part.fwLost
    | some k => ((s.part.fwLog[k]?).map logBytes).getD []))

/-! ## Timing errors (R391 to R393) -/

/-- A lane retired: never the last live one (R393). -/
def retireLane (c : Core) (lane : Fin 32) : Core :=
  let m := c.lmap &&& ~~~(BitVec.twoPow 32 lane.val)
  if m == 0 || !c.lmap.getLsbD lane.val then c
  else
    let live := liveLanes m
    let ceil := min c.alcCeil live
    { c with lmap := m, alcCeil := ceil, alcCur := min c.alcCur ceil, timing := c.timing.filter (fun t => t.1 != lane) }

/-- TIMING ERROR DETECTED in a lane of the active core: the beat is done again, the error counted, and a lane with 16 of them
within 1 ms retired. -/
def execTimingErrorDetected (lane : Fin 32) (s : State) : Out :=
  let now := s.part.tstamp.toNat
  .next (s.updCore (fun c =>
    let d := { c.dbg with terrLane := BitVec.ofNat 5 lane.val
                          terrCount := if c.dbg.terrCount == 0xFFFFFFFF then c.dbg.terrCount else c.dbg.terrCount + 1 }
    let t := (lane, now) :: c.timing.filter (fun x => decide (now - x.2 ≤ 1000000))
    let c1 := { c with dbg := d, timing := t }
    if 16 ≤ (t.filter (fun x => x.1 == lane)).length then retireLane c1 lane else c1))

/-! ## Watchdogs (R38, R76, R389) -/

/-- Whether both watchdogs of a core run: its group neither stopped, held, saved nor in the supervisor. -/
def watchdogsRun (c : Core) : Bool :=
  c.run == .running && !c.held && c.dbg.st == .running && c.view == .u && c.entry.isNone

/-- The code of the queue that the EP or the vector memory queue waits on, 0 for a FIFO bank. -/
def waitedQueue (c : Core) : Nat :=
  match c.viq, c.vmq with
  | ⟨.ins (.vtoq _ _), _⟩ :: _, _ => 38
  | ⟨.ins i, _⟩ :: _, _ => ((popCodes i).find? (queueEmpty c)).getD 0
  | _, o :: _ => match vmDesc o.ins with
    | some d => ((isQueue d.kind).map (fun j => 32 + j.val)).getD 0
    | none => 0
  | _, [] => 0

/-- The queue code of an AP that is blocked on a queue or a FIFO bank (R37, R75). -/
def apQueue (w : Wait) : Option Nat :=
  match w with
  | .q6 => some 38
  | .push j => some (32 + j.val)
  | .fifo b => some b.val
  | _ => none

/-- What a unit of the core does for the queue watchdog. -/
inductive UnitSt where
  | active | blocked | idle
  deriving DecidableEq, Repr

/-- The AP: blocked on a queue, or behind a blocked unit; idle at halt or ended; else active (R38). -/
def apUnit (c : Core) : UnitSt :=
  if c.run == .done then .idle
  else
    match c.wait with
    | .q6 | .push _ | .fifo _ | .full | .behind => .blocked
    | .halt => .idle
    | _ => .active

/-- The EP and the vector memory queue of the active core: idle while they hold nothing, blocked where each stands on a queue or
on the other one that does; active where one can go on, or waits for anything else. -/
def queuesUnit (s : State) : UnitSt :=
  match standing s with
  | none => .active
  | some b => if b then .blocked else .idle

/-- Whether the units of the active core stand as R38 counts: none active, and one blocked. -/
def deadlocked (s : State) : Bool :=
  watchdogsRun s.core && apUnit s.core != .active && queuesUnit s != .active
    && (apUnit s.core == .blocked || queuesUnit s == .blocked)

/-- Where a blocked EP or vector memory queue waits: the place of its head. -/
def blockedCap (c : Core) : Option Capture :=
  match c.viq, c.vmq with
  | ⟨.ins _, k⟩ :: _, _ => some k
  | _, o :: _ => some o.cap
  | o :: _, [] => some o.cap
  | [], [] => none

/-- QUEUE DEADLOCK WATCHDOG: after 65,536 edges in that state, the core's record and the kill (R38, R352, R389). It names where the
AP waits, when that is a queue, and else where the blocked queue's head does (DESIGN CHOICE: the rules do not say which of two; log
69). -/
def execQueueDeadlockWatchdog (s : State) : Out :=
  if !deadlocked s || s.core.queueEdges < 65536 then .next s
  else
    .next (takeKill s (match apQueue s.core.wait, blockedCap s.core with
      | none, some k => { capFault s k kQueueDeadlock none with sub := BitVec.ofNat 16 (waitedQueue s.core) }
      | q, _ => { apFault s kQueueDeadlock with sub := BitVec.ofNat 16 (q.getD 0) }))

/-- TILE WATCHDOG: an instruction has waited on a filling tile for 4,194,304 edges (R76, R389). -/
def execTileWatchdog (s : State) : Out :=
  match s.core.wait with
  | .tile t n =>
    if watchdogsRun s.core && decide (4194304 ≤ n) then
      .next (takeFault s { apFault s kTileWatchdog with sub := BitVec.ofNat 16 t.val })
    else .next s
  | _ => .next s

/-! ## Ends of groups (R345, R348) -/

/-- Records of a group's virtual device that wait: its fault add comes behind them (R345). -/
def recsWait (s : State) (g : Group) : Bool := !(recsOf s.part g.vdid false).isEmpty

/-- KILL FINISH ADD: every record of the killed group is performed; its stores are released, fin receives the fault add, and
its cores are free. It waits while the frame of fin is closed. -/
def execKillFinishAdd (cgid : BitVec 32) (s : State) : Out :=
  match findGroup s.part cgid with
  | none => .next s
  | some g =>
    if !g.killed || recsWait s g then .next s
    else
      let s1 := releaseCores s g.mask
      match finishAdd s1 g.vdid cgid g.lr.fin faultAmount with
      | none => .next s
      | some s2 =>
        let p := { s2.part with
          packets := s2.part.packets.filter (fun k => k.cgid != cgid)
          vds := s2.part.vds.map (fun d => { d with resume := d.resume.map (fun l => l.filter (fun x => x != cgid)) }) }
        .next { (freeCores { s2 with part := p } cgid) with part := dropGroup p cgid }

/-- SUPERVISOR TIMEOUT: an entry that has not returned within the strip budget kills the group (R348). -/
def execSupervisorTimeout (s : State) : Out :=
  match s.core.entry, findGroup s.part s.core.cgid with
  | some e, some g =>
    if budgetOf s.part g * 1000 ≤ e.ns then .next (takeKill s (apFault s kSupervisor)) else .next s
  | _, _ => .next s

/-! ## Faults of fetches and encodings (R145, R155) -/

/-- Whether earlier instructions in the queues of the active core have still to complete. Those cannot that stand on an architectural
queue which only a later instruction moves, nor in the S view those at or behind a fault that was taken. What an engine has
accepted is complete as an instruction, and ends with the kill (R345; DEDUCED, log 67). -/
def earlierRun (s : State) : Bool :=
  let c := s.core
  let stop := if c.view == .s then c.entry.bind Entry.stop else none
  !queuesStand c && (!c.openVmq.isEmpty || c.viq.any (fun o => stop.all (fun n => decide (o.cap.seq < n))))

/-- RESERVED ENCODING (R145): earlier instructions complete, then the fault is raised. -/
def execReservedEncoding (s : State) : Out :=
  if earlierRun s then .next (s.waitAs .behind) else raise s kIllegalInstr

/-- INSTRUCTION FETCH FAULT (R155, R371). -/
def execInstructionFetchFault (kind : BitVec 8) (level : Nat) (addr : Word) (s : State) : Out := raiseAt s kind level addr

/-- STREAM FAULT TAKEN (R387): the EP names an empty queue whose stream stands faulted. -/
def execStreamFaultTaken (q : Fin 4) (s : State) : Out :=
  let faulted := ((s.core.streams[q]).map (fun x => x.fault.isSome)).getD false
  if !faulted || !(s.core.vq[q]).isEmpty then .next s
  else
    match s.core.viq with
    | ⟨.ins i, k⟩ :: _ => .next (if (popCodes i).contains (32 + q.val) then epFault s k kStream none (BitVec.ofNat 16 (32 + q.val)) else s)
    | _ => .next s

end Sys2Proof.Machine
end

