-- ==== Sys2Proof/Machine/Rates.lean ====
section
/-! DEFINITION. Guaranteed rates: buckets and lending pools (R259, R263), grants by class (R264, R267), core time (R266), and
windows with their status samples (R261, R262). -/

namespace Sys2Proof.Machine

open Sys2Proof

/-! ## Windows (R259) -/

/-- Windows of an instance that have ended (R259). -/
def windowsEnded (p : Part) (kind inst : Nat) : Nat := arbClock p kind inst / 1024

/-! ## Refill (R259, R263) -/

/-- A bucket over n clk without a grant: the level, and the surplus for the pool. -/
def refillBucket (n : Nat) (b : Bucket) : Bucket × Nat :=
  let lvl := b.level + b.rate * n
  let top : Int := b.depth * 1024
  if top < lvl then ({ b with level := top }, (lvl - top).toNat) else ({ b with level := lvl }, 0)

/-- A core-time bucket over m µs: each µs its refill, then a token for each shared core held (R259, R266). -/
def coreTimeBucket (held : Nat) : Nat → Bucket × Nat → Bucket × Nat
  | 0, x => x
  | m + 1, x =>
    let r := refillBucket 1 x.1
    coreTimeBucket held m (chargeDown r.1 held, x.2 + r.2)

/-- Shared cores that the groups of a virtual device hold, those of saves and restores included (R266). -/
def sharedHeld (s : State) (v : BitVec 6) : Nat :=
  match findVd s.part v with
  | none => 0
  | some d => (((s.part.groups.filter (fun g => g.vdid == v && (g.st != .saved || comesBack s.part g))).flatMap (heldCores s)).eraseDups.filter
      (fun i => d.shared.getLsbD i)).length

/-- Unassigned capacity of an instance in 1/1,024 token a clk: cap less the rates of its buckets (R263). -/
def unassigned (p : Part) (kind inst : Nat) : Nat :=
  capOf p kind inst - ((p.buckets.filter (fun b => b.kind == kind && b.inst == inst)).foldl (fun n b => n + b.rate) 0)

/-- A pool that receives surplus and the unassigned share up to a time; it holds at most cap. -/
def feedPool (p : Part) (t : Nat) (surplus : Nat) (q : Pool) : Pool :=
  { q with level := min (1024 * capOf p q.kind q.inst) (q.level + (t - q.upTo) * unassigned p q.kind q.inst + surplus), upTo := t }

/-- A bucket over the time from where it stands to another; core time is charged for each µs of it. -/
def bucketTo (s : State) (t : Nat) (b : Bucket) : Bucket × Nat :=
  let r := if b.kind == 6 then coreTimeBucket (sharedHeld s b.vdid) (t - b.upTo) (b, 0) else refillBucket (t - b.upTo) b
  ({ r.1 with upTo := max b.upTo t }, r.2)

/-- Where the refill of an instance stands at a time: not past the end of a window that is still to be closed (R261, R262). -/
def refillEnd (p : Part) (kind inst t : Nat) : Nat :=
  if p.buckets.any (fun b => b.kind == kind && b.inst == inst) then min t (1024 * ((getPool p kind inst).window + 1)) else t

/-- Time passes at the arbiters picked: `now` is the part at the end of it. -/
def refillAt (pick : Nat → Nat → Bool) (s : State) (now : Part) : State :=
  let p := s.part
  let ends (kind inst : Nat) : Nat := refillEnd p kind inst (arbClock now kind inst)
  let out := p.buckets.map (fun b => if pick b.kind b.inst then bucketTo s (ends b.kind b.inst) b else (b, 0))
  let surplus (q : Pool) : Nat := (out.filter (fun x => x.1.kind == q.kind && x.1.inst == q.inst)).foldl (fun k x => k + x.2) 0
  { s with part := { p with
      buckets := out.map (·.1)
      pools := p.pools.map (fun q => if pick q.kind q.inst then feedPool p (max q.upTo (ends q.kind q.inst)) (surplus q) q else q) } }

/-- Time passes at every arbiter. -/
def refill (s : State) (now : Part) : State := refillAt (fun _ _ => true) s now

/-! ## Grants (R264, R267) -/

/-- Up to n grant units given to the request that an instance grants next, as long as it is the virtual device's in the class. -/
def grantNext (kind inst : Nat) (v : BitVec 6) (cls : Nat) : Nat → Part → Part
  | 0, p => p
  | n + 1, p =>
    match nextReq p kind inst with
    | none => p
    | some (i, r) =>
      if r.vdid == v && reqClass p r == some cls then grantNext kind inst v cls n (grantUnit p i r) else p

/-- ARBITER GRANT: units of standing requests of classes 3 to 5, granted one by one in the order of R264 while tokens last; work of
classes 1, 2 and 6 is charged without waiting (R267). -/
def execArbiterGrant (kind inst : Nat) (vdid : Nat) (cls units : Nat) (s : State) : Out :=
  let v := BitVec.ofNat 6 vdid
  .next (mapPart s (fun p =>
    if cls == 1 || cls == 2 || cls == 6 then mapBucket p kind inst v (fun b => chargeDown b units)
    else grantNext kind inst v cls units p))

/-! ## Windows (R261, R262) -/

/-- A sample slot of a status area (R262): its 32 bytes as one number. -/
def sampleBytes (window : Nat) (b : Bucket) : Nat :=
  window % 2 ^ 32 + ((b.level.fdiv 1024).emod (2 ^ 32)).toNat * 2 ^ 32 + b.own % 2 ^ 32 * 2 ^ 64 + b.lent % 2 ^ 32 * 2 ^ 96
    + b.forgiven % 2 ^ 32 * 2 ^ 128

/-- One sector written for a virtual device in the dump and trace class; skipped where the area cannot be written (R396). -/
def statusSector (s : State) (d : Vd) (va : Word) (v : Nat) : State :=
  match vdCheck s d .store va with
  | .ok x => putHome s (vdCluster d) d.vdid x 32 v .trace
  | _ => s

/-- Whether a sample selector of a virtual device names an instance; the command processor is selected as instance 0 (R260,
R261; log 45). -/
def selects (d : Vd) (sel : BitVec 32) (kind inst : Nat) : Bool :=
  (sel.extractLsb' 0 4).toNat == kind &&
    (if kind = 6 then sel.extractLsb' 16 16 == 0 && inst == d.part.toNat else (sel.extractLsb' 16 16).toNat == inst)

/-- The samples of one virtual device that select an instance. -/
def samplesOf (kind inst window : Nat) (s : State) (d : Vd) : State :=
  if d.rate.status == 0 then s
  else
    match findBucket s.part kind inst d.vdid with
    | none => s
    | some b =>
      (List.finRange 4).foldl (fun t i =>
        if selects d (d.rate.slots[i]).1 kind inst then
          statusSector t d (d.rate.status + BitVec.ofNat 64 (32 * i.val)) (sampleBytes window b)
        else t) s

/-- The rate record in force for a bucket from a window boundary on; the level is capped at the new depth (R261). -/
def adoptRate (p : Part) (b : Bucket) : Bucket :=
  match findVd p b.vdid with
  | none => b
  | some d =>
    let r := ((d.rate.rate.toList)[b.kind]?).getD 0
    let dep := ((d.rate.depth.toList)[b.kind]?).getD 0
    { b with guaranteed := d.rate.guaranteed, rate := r, depth := dep, level := min b.level (dep * 1024), own := 0, lent := 0
             forgiven := 0 }

/-- ARBITER WINDOW: a window of an instance that has ended: its samples are written as the buckets stand at its end, the counts
start again, records installed since take effect, and the refill goes on from there (R261, R262). Several that a turn of time has
brought end one after another (log 4). -/
def execArbiterWindow (kind inst : Nat) (s : State) : Out :=
  let q := getPool s.part kind inst
  if windowsEnded s.part kind inst ≤ q.window then .next s
  else
    let s1 := s.part.vds.foldl (samplesOf kind inst q.window) s
    let p := { s1.part with buckets := s1.part.buckets.map (fun b => if b.kind == kind && b.inst == inst then adoptRate s1.part b else b) }
    let s2 := { s1 with part := setPool p { getPool p kind inst with window := q.window + 1 } }
    .next (refillAt (fun k i => k == kind && i == inst) s2 s2.part)

/-- An instance that a window has ended at, among those that have buckets. -/
def windowDue (p : Part) : Option (Nat × Nat) :=
  (p.buckets.find? (fun b => decide ((getPool p b.kind b.inst).window < windowsEnded p b.kind b.inst))).map (fun b => (b.kind, b.inst))

/-- The buckets of a first install: full, at the record's depth; its rate and kind are in force from the next window on (R259,
R261). -/
def newBuckets (p : Part) (d : Vd) : List Bucket :=
  (List.finRange 7).flatMap (fun k => ((if k = 6 then [d.part.toNat] else List.range (instancesOf k.val))).map (fun i =>
    { kind := k.val, inst := i, vdid := d.vdid, level := ((d.rate.depth[k] * 1024 : Nat) : Int), guaranteed := false, rate := 0
      depth := d.rate.depth[k], own := 0, lent := 0, forgiven := 0, upTo := arbClock p k.val i }))

/-- Instances that gain their first bucket count their windows from now: nothing was to be written at the earlier ones. -/
def countWindows (p : Part) (l : List Bucket) : Part :=
  let fresh := l.filter (fun b => !p.buckets.any (fun x => x.kind == b.kind && x.inst == b.inst))
  let here (q : Pool) : Bool := fresh.any (fun b => b.kind == q.kind && b.inst == q.inst)
  { p with pools := p.pools.filter (fun q => !here q) ++
      fresh.map (fun b => { getPool p b.kind b.inst with window := windowsEnded p b.kind b.inst, upTo := arbClock p b.kind b.inst }) }

end Sys2Proof.Machine
end

