-- ==== Sys2Proof/Machine/Power.lean ====
section
/-! DEFINITION. Power and clocks: droop (R302, R394), the power controller (R305, R306, R394, R395), the voltage and frequency
sequencer (R304), lane gating (R301), and the passing of time (R303; log 4). -/

namespace Sys2Proof.Machine

open Sys2Proof

/-- A die's record replaced. -/
def setDie (s : State) (d : Fin 4) (x : Die) : State := { s with part := { s.part with dies := s.part.dies.set d x } }

/-! ## Droop (R302) -/

/-- DROOP ALARM: absorbed during stretch, else the response begins with its stretch. -/
def execDroopAlarm (die : Fin 4) (s : State) : Out :=
  let d := { s.part.dies[die] with alarmed := true }
  .next (setDie s die (match d.phase with
    | .stretch => d
    | _ => { d with phase := .stretch, left := d.stretch }))

/-- DROOP PHASE END: the count has run out; halving follows stretch, but for locked-clock mode or a count of 0. -/
def execDroopPhaseEnd (die : Fin 4) (s : State) : Out :=
  let d := s.part.dies[die]
  if d.left != 0 then .next s
  else
    match d.phase with
    | .nominal => .next s
    | .stretch =>
      .next (setDie s die (if s.part.lockedClock || d.halve == 0 then { d with phase := .nominal }
        else { d with phase := .halving, left := d.halve }))
    | .halving => .next (setDie s die { d with phase := .nominal })

/-! ## The power controller (R305, R306, R394, R395) -/

/-- The lowest frequency, in steps of 50 MHz (R299). -/
def lowFreq : Nat := 20

/-- A quarter of the ceiling, rounded up: where lowering ALC ends. -/
def alcFloor (c : Core) : Nat := (c.alcCeil + 3) / 4

/-! ### The sequencer (R304) -/

/-- V(f) of a die's fused table, in steps of 25 mV: the entry of the next 100 MHz at or above f. -/
def voltFor (d : Die) (f : Nat) : Nat := d.volts[Fin.ofNat 5 (min 4 ((f - 20 + 1) / 2))]

/-- The step that the sequencer of a die makes next: rising, a voltage step comes before the frequency steps that need it; falling,
after those that allow it. -/
def nextStep (d : Die) : Option VfStep :=
  if d.freq < d.target then some (if d.volt < voltFor d (d.freq + 1) then .volt true else .freq true)
  else if d.target < d.freq then
    some (if d.falling && d.freq % 2 == 0 && decide (voltFor d d.freq < d.volt) then .volt false else .freq false)
  else if voltFor d d.freq < d.volt then some (.volt false)
  else none

/-- A target in force; a step in progress is not cut (R304). -/
def aimAt (d : Die) (f : Nat) : Die :=
  let d1 := { d with target := f }
  { d1 with step := d1.step.or (nextStep d1) }

/-- A step of a ramp made. -/
def makeStep (d : Die) (x : VfStep) : Die :=
  match x with
  | .volt true => { d with volt := d.volt + 1, falling := false }
  | .volt false => { d with volt := d.volt - 1 }
  | .freq true => { d with freq := d.freq + 1, falling := false }
  | .freq false => { d with freq := d.freq - 1, falling := true }

/-- VF STEP COMPLETE: the step in progress is made, and the next one towards the target then in force begins. -/
def execVfStepComplete (die : Fin 4) (s : State) : Out :=
  let d := s.part.dies[die]
  match d.step with
  | none => .next (setDie s die { d with step := nextStep d })
  | some x =>
    let d1 := { makeStep d x with step := none }
    .next (setDie s die { d1 with step := nextStep d1 })

/-- The boost clock of the grade, in steps of 50 MHz (R1). -/
def boostFreq (p : Part) : Nat := if presentBelow p.present 128 ≤ 96 then 26 else 28

/-- Firmware sets the frequency at which a die is to run: from 1.0 GHz to the grade's boost clock. A lower one is aimed at now; the
controller raises a die in its own steps (R1, R299, R304; log 58). -/
def clockAim (s : State) (die : Fin 4) (f : Nat) : State :=
  if f < lowFreq ∨ boostFreq s.part < f then s
  else
    let d := { s.part.dies[die] with aim := f }
    setDie s die (if f < d.target then aimAt d f else d)

/-! ### Lowering and restoring -/

/-- One step of lowering on the dies that `p` picks: ALC first, by at most 8, then frequency targets. -/
def lowerStep (p : Fin 4 → Bool) (s : State) : State :=
  let mine (c : Core) : Bool := p (clusterDie (coreCluster c.index))
  let alc := s.cores.any (fun c => mine c && decide (alcFloor c < c.alcCur))
  if alc then s.mapCores (fun c => if mine c then { c with alcCur := if c.alcCur ≤ alcFloor c then c.alcCur else max (alcFloor c) (c.alcCur - 8) } else c)
  else { s with part := { s.part with dies := Vector.ofFn (fun i : Fin 4 =>
    let d := s.part.dies[i]
    if p i then aimAt d (max lowFreq (d.target - 1)) else d) } }

/-- One step of restoring: frequencies first, up to where each die is to run, then ALC by at most 8. -/
def restoreStep (p : Fin 4 → Bool) (s : State) : State :=
  let mine (c : Core) : Bool := p (clusterDie (coreCluster c.index))
  let low (d : Die) : Bool := decide (d.target < d.aim)
  if (List.finRange 4).any (fun i => p i && low s.part.dies[i]) then
    { s with part := { s.part with dies := Vector.ofFn (fun i : Fin 4 =>
      let d := s.part.dies[i]
      if p i && low d then aimAt d (d.target + 1) else d) } }
  else s.mapCores (fun c => if mine c then { c with alcCur := min c.alcCeil (c.alcCur + 8) } else c)

/-- The lanes of a core as boot has left them: trimmed once stage 2 has run; one retired since comes back with a reset (R300). -/
def bootLanes (p : Part) (i : Nat) : BitVec 32 := if 2 ≤ p.bootStage then Config.trimmedLanes i else 0xFFFFFFFF

/-- A core after the reset of its die: LMAP as at boot, and ALC its lanes (R300, R301). -/
def freshCore (p : Part) (c : Core) : Core :=
  let m := bootLanes p c.index.val
  { Core.reset c.index with lmap := m, alcCeil := liveLanes m, alcCur := liveLanes m }

/-- A die after its reset: droop registers, CYCLE and walker as after reset; clock, rail, table and sensor stay (R302, R303). -/
def freshDie (d : Die) : Die :=
  { Die.reset with freq := d.freq, volt := d.volt, target := d.target, step := d.step, aim := d.aim, volts := d.volts
                   temp := d.temp, hot := d.hot, falling := d.falling }

/-- The compute dies as after reset, when firmware lets them go again: cores, clusters, gateways and homes' records, and the dies'
arbiters; core stores and cluster SRAM hold what is not stated (R377, R395; log 23). -/
def releaseDies (s : State) : State :=
  let p := s.part
  let own (kind inst : Nat) : Bool := (arbDie kind inst).isSome
  { s with core := freshCore p s.core, rest := s.rest.map (freshCore p)
           clusters := Vector.replicate 128 Cluster.reset
           loc := (Memory.empty).makeFree 0 (2 ^ 41) s.free, locPoison := [], free := s.free + 1
           coh := { Coherence.reset with pages := s.coh.pages, hand := s.coh.hand, outside := s.coh.outside, slowU := s.coh.slowU }
           part := { p with
             fatalHeld := false, dies := p.dies.map freshDie, pools := p.pools.map (fun q => if own q.kind q.inst then ⟨q.kind, q.inst, 1024 * capOf p q.kind q.inst, 0, 0⟩ else q)
             areqs := p.areqs.filter (fun r => !own r.kind r.inst)
             buckets := p.buckets.map (fun b => if own b.kind b.inst then { b with level := b.depth * 1024, upTo := 0 } else b) } }

/-- The droop response of each die over the millisecond that has ended (R394). -/
def droopPeriod (s : State) : State :=
  { s with part := { s.part with dies := s.part.dies.map (fun d =>
    { d with limited := if d.msEdges < 2 * d.busyEdges then true else if d.alarmed then d.limited else false
             msEdges := 0, busyEdges := 0, alarmed := false }) } }

/-- A mark that is set above an upper threshold and cleared below a lower one. -/
def between (old up down : Bool) : Bool := if up then true else if down then false else old

/-- What a control tick measures: package power, in W, whose average is over the last 100 ticks, 1 ms; the temperature of each
compute die and of the system die, in °C. -/
def measure (watts : Nat) (temps : List Int) (s : State) : State :=
  let w := (watts :: s.part.watts).take 100
  let sum := w.foldl (· + ·) 0
  let temp (i : Fin 4) : Int := (temps[i.val]?).getD (s.part.dies[i]).temp
  let sys := (temps[4]?).getD s.part.sysTemp
  { s with part := { s.part with
    watts := w, ticks := (s.part.ticks + 1) % 100, sysTemp := sys
    sysHot := between s.part.sysHot (decide (100 ≤ sys)) (decide (sys < 95))
    overPower := between s.part.overPower (decide (2300 * w.length < sum)) (decide (sum < 2200 * w.length))
    dies := Vector.ofFn (fun i : Fin 4 =>
      let d := s.part.dies[i]
      { d with temp := temp i, hot := between d.hot (decide (100 ≤ temp i)) (decide (temp i < 95)) }) } }

/-- Locked-clock mode is left because of power or heat, and the exit is reported over the sideband (R395; log 20). -/
def leaveLocked (s : State) : State :=
  { s with part := { s.part with lockedClock := false, answers := s.part.answers ++ [.bytes Config.clockExitReport] } }

/-- POWER CONTROL TICK (R305, R306, R394, R395): a die is lowered while the power average exceeds 2,300 W, while it is hot or its
droop response limits it, and every die while the system die is hot (log 69); it is restored once each of the causes has gone: the
average below 2,200 W, the die below 95 °C. -/
def execPowerControlTick (watts : Nat) (temps : List Int) (s : State) : Out :=
  let s1 := measure watts temps s
  let s2 := if s1.part.ticks == 0 then droopPeriod s1 else s1
  let n := s2.part.watts.length
  let sum := s2.part.watts.foldl (· + ·) 0
  let all := s2.part.sysTemp :: s2.part.dies.toList.map (·.temp)
  let s3 := if s2.part.lockedClock && (2400 * n < sum || all.any (fun t => decide (100 ≤ t))) then leaveLocked s2 else s2
  if s2.part.fatalHeld then .next (if all.all (fun t => decide (t < 95)) then releaseDies s3 else s3)
  else if all.any (fun t => decide (110 ≤ t)) then .next (fatal s3 7 0)
  else if s2.part.lockedClock then .next s3
  else
    let lower (i : Fin 4) : Bool :=
      decide (2300 * n < sum) || decide (100 ≤ s2.part.sysTemp) || decide (100 ≤ (s2.part.dies[i]).temp) || (s2.part.dies[i]).limited
    let rest (i : Fin 4) : Bool := !lower i && !s2.part.overPower && !s2.part.sysHot && !(s2.part.dies[i]).hot
    let s4 := if (List.finRange 4).any lower then lowerStep lower s2 else s2
    .next (if (List.finRange 4).any rest then restoreStep rest s4 else s4)

/-! ## Lane gating (R301) -/

/-- Whether an instruction of the EP's order is of class 3: it uses lane ALUs. -/
def usesLanes (w : EpWork) : Bool :=
  match w with
  | .ins (.setvl _ _ _ _ _) | .ins (.setvlTeam _ _ _ _ _ _) => false
  | .ins _ => true
  | _ => false

/-- LANE GATE TIMEOUT: 4,096 clk since the last class-3 instruction completed, none issued meanwhile (R301). -/
def execLaneGateTimeout (s : State) : Out :=
  .next (if decide (4096 ≤ s.core.idleEdges) && !s.part.lockedClock && !s.core.viq.any (fun o => usesLanes o.work) then
      s.updCore (fun c => { c with gated := true })
    else s)

/-! ## Time (R4, R303; log 4) -/

/-- A die over n delivered edges. -/
def tickDie (n : Nat) (d : Die) : Die :=
  let busy := if d.phase == .nominal then 0 else min n d.left
  { d with cycle := d.cycle + BitVec.ofNat 64 n, edges := d.edges + n, left := d.left - n, msEdges := d.msEdges + n, busyEdges := d.busyEdges + busy }

/-- The wait of an AP over n edges: the clk of `wait`, and of a tile watchdog that runs. -/
def tickWait (c : Core) (n : Nat) : Wait :=
  match c.wait with
  | .clocks k => .clocks (k - n)
  | .tile t k => .tile t (if watchdogsRun c then k + n else k)
  | w => w

/-- A core over n edges and ns nanoseconds; `locked` while its units stand as the queue watchdog counts. The watchdogs and the
strip's time pause while the group is stopped, held, saved or in the supervisor (R309, R389). -/
def tickCore (n ns : Nat) (locked : Bool) (c : Core) : Core :=
  let paused := c.held || c.dbg.st != .running
  { c with
    wait := tickWait c n
    late := c.late - ns
    idleEdges := c.idleEdges + n
    queueEdges := if !watchdogsRun c then c.queueEdges else if locked then c.queueEdges + n else 0
    stripNs := if c.run == .running && !paused && c.view == .u then c.stripNs + ns else c.stripNs
    dbg := if c.dbg.st == .stepping then { c.dbg with stepNs := c.dbg.stepNs + ns } else c.dbg
    tiles := match c.wait with
      | .tile t _ => c.tiles.set t { c.tiles[t] with stamp := (c.tiles[t]).stamp.map (fun x =>
          { x with opWait := BitVec.ofNat 32 (min (2 ^ 32 - 1) (x.opWait.toNat + n)) }) }
      | _ => c.tiles
    entry := c.entry.map (fun e => { e with ns := e.ns + ns })
    adv := { c.adv with reqs := (c.adv.reqs.take 32).map (fun r => { r with age := r.age + n }) ++ c.adv.reqs.drop 32
                        ldidx := c.adv.ldidx.map (fun r => { r with age := r.age + n }) } }

/-- Time passes: so many delivered edges of each compute die, and ns nanoseconds of the reference. -/
def tick (e : Fin 4 → Nat) (ns : Nat) (s : State) : State :=
  let p := s.part
  let now := { p with tstamp := p.tstamp + BitVec.ofNat 64 ns, ns := p.ns + ns, dies := Vector.ofFn (fun i : Fin 4 => tickDie (e i) p.dies[i]) }
  let s1 := (refill s now).mapCores (fun c =>
    tickCore (e (clusterDie (coreCluster c.index))) ns (watchdogsRun c && deadlocked (activate s c.index)) c)
  let c := s1.coh
  let edges (g : Fin 5) : Nat :=
    if h : g.val < 4 then e ⟨g.val, h⟩ else systemEdges now.ns - systemEdges p.ns
  drainRecs { mapCl s1 (fun x => { x with ws := x.ws.map (fun w => { w with age := w.age + ns }) }) with
    part := { s1.part with tstamp := now.tstamp, ns := now.ns, dies := now.dies }
    coh := { c with reqs := c.reqs.map (fun r => { r with edges := r.edges + edges r.gw })
                    persist := c.persist.map (fun p => { p with ns := p.ns + ns })
                    urecs := c.urecs.map (fun r => if r.merging.isSome then { r with ns := r.ns + ns } else r)
                    hand := if c.hand.status == 1 then { c.hand with ns := c.hand.ns + ns } else c.hand } }

end Sys2Proof.Machine
end

