-- ==== Sys2Proof/Machine/Debug.lean ====
section
/-! DEFINITION. The debug block: stops, runs and steps (R308 to R310), reverse stepping (R312, R313) and its log (R314),
register writes by firmware (R10, R276), and dumps (R317, R318, R397). -/

namespace Sys2Proof.Machine

open Sys2Proof

def State.updDbg (s : State) (f : Debug → Debug) : State := s.updCore (fun c => { c with dbg := f c.dbg })

/-! ## Memory as units of the part read and write it -/

/-- n bytes from an address, line by line: each line's first byte and how many of its bytes (R69). -/
def linePieces (pa n : Nat) : List (Nat × Nat) :=
  (List.range ((pa + n - 1) / 128 + 1 - pa / 128)).map (fun i =>
    let a := max pa ((pa / 128 + i) * 128)
    (a, min (pa + n) ((pa / 128 + i + 1) * 128) - a))

/-- Before a unit of the part reads n bytes at their home, every line in U there is merged (R98). -/
def homeLines (s : State) (pa n : Nat) : State := (linePieces pa n).foldl (fun t x => aliasRead (mergeLine (completeLine t (x.1 / 128)) (x.1 / 128)) x.1) s

/-- Their value, and whether one is poisoned. -/
def homeRead (s : State) (pa n : Nat) : Nat × Bool :=
  (linePieces pa n).foldr (fun x r =>
    let k := memKey s.part x.1
    (s.mem.readN k x.2 + 2 ^ (8 * x.2) * r.1, touchesPoison s.poison k x.2 || r.2)) (0, false)

/-- The bytes themselves. -/
def homeReadList (s : State) (pa n : Nat) : List Byte :=
  (linePieces pa n).flatMap (fun x => s.mem.readList (memKey s.part x.1) x.2)

/-- Bytes put at their homes, piece by piece. -/
def putPieces (s : State) : List (Nat × Nat) → List Byte → State
  | [], _ => s
  | (a, m) :: t, l =>
    let k := memKey s.part a
    putPieces (wake { s with mem := s.mem.writeList k (l.take m) } false k m) t (l.drop m)

/-- Bytes written at a physical address by a unit of the part: each line is gathered at its home first, and a sector written
whole is no longer poisoned (R372). -/
def homeWrite (s : State) (pa : Nat) (l : List Byte) : State :=
  let n := l.length
  let s1 := (linePieces pa n).foldl (fun t x => purgeLine t (x.1 / 128) none) s
  let s2 := putPieces s1 (linePieces pa n) l
  (List.range ((pa + n) / 32 - (pa + 31) / 32)).foldl (fun t i => clearPoison t (((pa + 31) / 32 + i) * 32)) s2

/-- A write of the dump and trace class by the active core, charged to its virtual device (R267). -/
def traceWrite (s : State) (pa : Nat) (l : List Byte) : State :=
  homeWrite (mapPart s (fun p => chargeHome p s.core.vdid .trace s.cl.val pa l.length true)) pa l

def u16 (n : Nat) : List Byte := natBytes 2 n
def u32 (n : Nat) : List Byte := natBytes 4 n
def u64 (n : Nat) : List Byte := natBytes 8 n

/-! ## Stop, run, step (R309, R310) -/

/-- STOP: debug command 1 on the active core stops its group. -/
def execStop (s : State) : Out :=
  .next (if s.core.run == .off || s.core.dbg.st == .stopped then s else stopGroup s 1 0)

/-- A core that runs again; the view is the present one, and the instruction at the breakpoint that stopped it may issue (R309,
R313). -/
def Debug.go (d : Debug) : Debug :=
  { d with st := .running, cause := 0, bp := 0, viewAt := none, passBp := d.passBp || d.cause == 2, stepNs := 0 }

/-- RUN: debug command 2 resumes every core of the group. -/
def execRun (s : State) : Out :=
  if s.core.dbg.st != .stopped then .next s
  else
    let g := s.core.cgid
    let s1 := s.updDbg Debug.go
    let s2 := { s1 with rest := s1.rest.map (fun c => if inGroup g c then { c with dbg := c.dbg.go } else c) }
    .next (match findGroup s2.part g with
      | some x => { s2 with part := setGroup s2.part { x with stopped := false } }
      | none => s2)

/-- STEP: debug command 3; the active core's next AP instruction is to issue, and the core then stops with cause 6. -/
def execStep (s : State) : Out :=
  if s.core.dbg.st != .stopped then .next s
  else .next (s.updDbg (fun d => { d.go with st := .stepping }))

/-- A step that waits: its wait is given up, as nothing has issued. -/
def giveUpWait (s : State) : State :=
  match s.core.wait with
  | .counter _ _ _ _ | .sem _ | .fifo _ => withdrawWait s
  | _ => s.waitAs .none

/-- The waits that block a step: a queue, a FIFO bank, a semaphore, a counter, a full vector queue or a filling tile (R310). -/
def stepWaits (w : Wait) : Bool :=
  match w with
  | .q6 | .push _ | .fifo _ | .full | .sem _ | .counter _ _ _ _ | .tile _ _ => true
  | .none | .halt | .clocks _ | .behind | .other => false

/-- STEP BLOCKED: the instruction could not issue within 1 ms; cause 7. -/
def execStepBlocked (s : State) : Out :=
  if s.core.dbg.st != .stepping || !stepWaits s.core.wait || s.core.dbg.stepNs < 1000000 then .next s
  else .next ((giveUpWait s).updDbg (fun d => { d with st := .stopped, cause := 7, bp := 0 }))

/-- A stepped instruction has issued: the core stands stopped with cause 6. -/
def stepDone (s : State) : State :=
  if s.core.dbg.st == .stepping then s.updDbg (fun d => { d with st := .stopped, cause := 6, bp := 0 }) else s

/-- The breakpoint that matches the pc of the active core: an enabled BPAn of the form of R308. -/
def bpHit (c : Core) : Option (Fin 4) :=
  (List.finRange 4).find? (fun i => (c.dbg.bpa[i]).getLsbD 0 && (c.dbg.bpa[i] &&& 0x0000FFFFFFFFFFFC) == c.pc)

/-! ## Record mode (R312 to R314) -/

/-- Record mode is on for a core: launch debug flag 0 of the group that runs there, and a log region in the partition. -/
def recOnAt (s : State) (c : Core) : Bool :=
  c.run != .off && ((findGroup s.part c.cgid).map (fun g => g.lr.dflags.getLsbD 0)).getD false && recRegionOk s c c.part

def recOn (s : State) : Bool := recOnAt s s.core

/-- DBCTL.rec of every core, after a change of what record mode rests on (R308, R312). -/
def refreshRec (s : State) : State := s.mapCores (fun c => { c with dbg := { c.dbg with recMode := recOnAt s c } })

/-- The value that an instruction takes where its destination is s0, which shows none: what it would put into s1. -/
def shadowValue (f : SReg → State → Out) (s : State) : Word :=
  match f 1 s with
  | .next u => u.sreg 1
  | _ => 0

/-- What an instruction takes from outside the AP's registers: source code, destination, and the value, from the states
before and after it. -/
def takenValue (i : Instr) (s t : State) : Option (Nat × Nat × Word) :=
  let reg (k : Nat) (d : SReg) (f : SReg → State → Out) : Option (Nat × Nat × Word) :=
    some (k, d.val, if d = 0 then shadowValue f s else t.sreg d)
  match i with
  | .ld w d a o => reg 1 d (fun r => execLd w r a o)
  | .ldl w d a o => reg 1 d (fun r => execLdl w r a o)
  | .amo op ord w sc d a b off => reg 1 d (fun r => execAmo op ord w sc r a b off)
  | .amoCas ord w sc d a b c off => reg 1 d (fun r => execAmoCas ord w sc r a b c off)
  | .cdrd d j => reg 1 d (fun r => execCdrd r j)
  | .cdadd d j a => reg 1 d (fun r => execCdadd r j a)
  | .ccadd d a y => reg 1 d (fun r => execCcadd r a y)
  | .semtry d j => reg 2 d (fun r => execSemtry r j)
  | .qpop d => reg 3 d execQpop
  | .bq _ _ => s.core.q6.head?.map (fun x => (3, 0, x))
  | .sysrd d r => reg 4 d (fun k => execSysrd k r)
  | .tstamp d => reg 4 d execTstamp
  | .rdcycle d => reg 4 d execRdcycle
  | .launch d a => reg 5 d (fun r => execLaunch r a)
  | .setvlTeam _ _ _ _ _ _ => some (6, 0, t.core.stripBase)
  | _ => none

def isBelay (i : Instr) : Bool :=
  match i with
  | .setvl _ _ _ _ _ | .setvlTeam _ _ _ _ _ _ => true
  | _ => false

/-- Where the epoch of checkpoint n lies (R314). -/
def epochBase (c : Core) (n : Nat) : Nat := recBase c.dbg + (n + 1) % 2 * 0x200000

/-- The fixed part of a checkpoint block: sequence, retired, entries, s1 to s63, pc, STRIP, VL, VCTL, SEED. -/
def checkpointWords (c : Core) (n : Nat) : List (Nat × Word) :=
  [(0, BitVec.ofNat 64 n), (8, BitVec.ofNat 64 c.dbg.retired), (0x10, 0), (0x18, 0), (0x20, 0), (0x28, 0), (0x30, 0), (0x38, 0)]
    ++ (List.finRange 63).map (fun i => (0x40 + 8 * i.val, c.s[i.val + 1]))
    ++ [(0x238, c.pc), (0x240, c.stripBase), (0x248, c.stripNext), (0x250, BitVec.ofNat 64 c.vl), (0x258, c.rm.zeroExtend 64), (0x260, c.seed)]

/-- A checkpoint of the AP as a core holds it (R312, R314): it replaces the older of the two kept. Its bytes from 0x268 have the
layout of the save area, which is not given, and become free (log 15). -/
def checkpoint (c : Core) (s : State) : State :=
  let n := s.core.dbg.cpSeq + 1
  let base := epochBase s.core n
  let s0 := mapPart s (fun p => chargeHome p s.core.vdid .trace s.cl.val base 4096 true)
  let s1 := (checkpointWords c n).foldl (fun t w => homeWrite t (base + w.1) (u64 w.2.toNat)) s0
  let s2 := { s1 with mem := s1.mem.makeFree (memKey s1.part (base + 0x268)) 3480 s1.free, free := s1.free + 1 }
  let s3 := (List.range 128).foldl (fun t i => clearPoison t (base + 32 * i)) s2
  s3.updDbg (fun d => { d with cpSeq := n, cpRetired := c.dbg.retired, logged := 0, hist := d.hist.drop d.newer, newer := d.hist.length - d.newer })

/-- Log entries that an epoch holds. -/
def epochEntries : Nat := 130816

/-- One log entry of the instruction that core c has issued, after an early checkpoint of the AP before it where the entry would not
fit. -/
def logEntry (c : Core) (s : State) (k d : Nat) (v : Word) : State :=
  let s1 := if epochEntries ≤ s.core.dbg.logged then checkpoint c s else s
  let g := s1.core.dbg
  let base := epochBase s1.core g.cpSeq
  let word := (g.retired - g.cpRetired) % 2 ^ 32 + k * 2 ^ 32 + d * 2 ^ 40
  let s2 := traceWrite s1 (base + 0x1000 + 16 * g.logged) (u64 v.toNat ++ u64 word)
  let s3 := traceWrite s2 (base + 0x10) (u64 (g.logged + 1))
  s3.updDbg (fun d => { d with logged := d.logged + 1 })

def apSnap (c : Core) : ApSnap := ⟨c.pc, c.s, c.stripBase, c.stripNext⟩

/-- Whether an instruction of the AP that took state s to t has retired: it has not waited and not faulted. A trap and an eret
retire with the change of view that they are for (R162, R348). -/
def retired (i : Instr) (s t : State) : Bool :=
  let runs := t.core.index == s.core.index && (t.core.run == .running || t.core.run == .yielded)
  match i with
  | .trap _ => runs && t.core.wait == .none
  | .eret => runs && t.core.entry.isNone
  | _ => runs && t.core.wait == .none && t.core.entry == s.core.entry

/-- What record mode does after an instruction of the AP: the first checkpoint, of the AP before the instruction; its value logged;
the AP's state before it kept; checkpoints at a belay point and after 4,096 instructions. -/
def record (i : Instr) (s t : State) : State :=
  let t0 := if t.core.dbg.cpSeq = 0 then checkpoint s.core t else t
  let t1 := match takenValue i s t with
    | some (k, d, v) => logEntry s.core t0 k d v
    | none => t0
  let t2 := t1.updDbg (fun d => { d with retired := d.retired + 1, hist := d.hist ++ [apSnap s.core] })
  if isBelay i || decide (4096 ≤ t2.core.dbg.retired - t2.core.dbg.cpRetired) then checkpoint t2.core t2 else t2

/-- After an instruction of the AP of a group launched with debug flag 0: it counts once it has retired, and record mode writes its
log (R312, R314). -/
def recordAfter (i : Instr) (s t : State) : State :=
  if !dflag s 0 || !retired i s t then t
  else if recOn s then record i s t
  else t.updDbg (fun d => { d with retired := d.retired + 1 })

/-- REVERSE STEP: the view moves to the state before the instruction last shown, down to the older kept checkpoint; no state
of the core changes (R313). -/
def execReverseStep (s : State) : Out :=
  let d := s.core.dbg
  if d.st != .stopped || !recOn s then .next s
  else
    let at_ := match d.viewAt with
      | some k => some (k - 1)
      | none => if d.hist.isEmpty then none else some (d.hist.length - 1)
    .next (s.updDbg (fun d => { d with viewAt := at_, passBp := d.passBp || d.cause == 2, cause := 8, bp := 0 }))

/-- FORWARD STEP: one instruction replayed in the reversed view (R313). -/
def execForwardStep (s : State) : Out :=
  let d := s.core.dbg
  if d.st != .stopped then .next s
  else
    .next (s.updDbg (fun d => { d with viewAt := d.viewAt.bind (fun k => if k + 1 < d.hist.length then some (k + 1) else none) }))

/-- What the debug block shows of the AP of a stopped core: the reversed view, while one is up. -/
def shownAp (c : Core) : ApSnap := (c.dbg.viewAt.bind (fun k => c.dbg.hist[k]?)).getD (apSnap c)

/-! ## Register writes by firmware (R10, R276) -/

/-- The fields of DBCTL as firmware may write them; a reserved code leaves its field undisturbed (R308). -/
def putDbctl (v : Word) (d : Debug) : Debug :=
  let st : DbgSt := match (v.extractLsb' 4 2).toNat with
    | 0 => .running | 1 => .stopped | 2 => .stepping | _ => d.st
  let cause := v.extractLsb' 8 4
  { d with recMode := v.getLsbD 15, bp := v.extractLsb' 12 3, st := st, cause := if 8 < cause.toNat then d.cause else cause }

/-- DBCTL written: a command is done; a write without one puts the fields (log 61). -/
def execDbctl (v : Word) (s : State) : Out :=
  match (v.extractLsb' 0 3).toNat with
  | 1 => execStop s
  | 2 => execRun s
  | 3 => execStep s
  | 4 => execReverseStep s
  | 5 => execForwardStep s
  | _ => .next (s.updDbg (putDbctl v))

/-- A value that has bits outside a register's form is ignored (R308; log 41). -/
def formOk (mask v : Word) : Bool := v &&& ~~~mask == 0

/-- A register of the debug block but DBCTL written: the bits it has. -/
def dbgPut (s : State) (r : DbgReg) (v : Word) : State :=
  match r with
  | .dbctl => s
  | .bpa i => if formOk 0x0000FFFFFFFFFFFD v then s.updDbg (fun d => { d with bpa := d.bpa.set i v }) else s
  | .wpa i => if formOk 0x0000FFFFFFFFFFFF v then s.updDbg (fun d => { d with wpa := d.wpa.set i v }) else s
  | .wpl i => if formOk 0xC0000000001FFFFF v then s.updDbg (fun d => { d with wpl := d.wpl.set i v }) else s
  | .recbase => refreshRec (s.updDbg (newRegion v))
  | .terr => s.updDbg (fun d => { d with terrLane := v.extractLsb' 32 5, terrCount := v.extractLsb' 0 32 })

/-- REGISTER WRITE: of a register of the active core, through the Felloth bus. -/
def execRegisterWrite (r : RegName) (v : Word) (s : State) : Out :=
  match r with
  | .sys n => .next (refreshRec (sysPutM s n.toNat v))
  | .dbg .dbctl => execDbctl v s
  | .dbg k => .next (dbgPut s k v)

/-! ## Dumps (R317, R318, R397) -/

def padTo (n : Nat) (l : List Byte) : List Byte := l ++ List.replicate ((n - l.length % n) % n) 0

/-- An item: its descriptor and its bytes. -/
def dumpItem (kind : Nat) (poisoned : Bool) (unit : Nat) (off : Nat) (b : List Byte) : List Byte :=
  natBytes 1 kind ++ natBytes 1 (if poisoned then 1 else 0) ++ u16 unit ++ u32 (padTo 32 b).length ++ u64 off ++ padTo 32 b

/-- The cores of a virtual device, by its masks. -/
def dumpCores (s : State) (d : Vd) : List Core := (maskCores (d.excl ||| d.shared)).map (fun i => s.getCore (Fin.ofNat 1024 i))

/-- Whether a register or a queue of a core holds poison. -/
def corePoison (c : Core) : Bool := c.poisonV != 0 || c.vq.toList.any (fun q => q.any (fun e => e.poison != 0)) || !c.saveBad.isEmpty

/-- Items of a core: its save area; and, of one that is the virtual device's alone or bears its VDID, its store, its registers and
its accumulator tiles (R317). -/
def coreItems (s : State) (d : Vd) (c : Core) : List (List Byte) :=
  let i := c.index.val
  let key := coreKey i 0
  let save := d.save + saveIndex d i * 2 ^ 21
  let mine := d.excl.getLsbD i || c.vdid == d.vdid
  (if mine then [dumpItem 0 (touchesPoison s.locPoison key 0x80000) i 0 (s.loc.readList key 0x80000),
    dumpItem 1 (corePoison c) i 0 (Config.dumpRegisterBytes s.free i)] else [])
    ++ [dumpItem 2 (homeRead s save 0x200000).2 i 0 (homeReadList s save 0x200000)]
    ++ (if mine then (List.finRange 4).filter (fun z => c.acc.getLsbD z.val) |>.map (fun z => dumpItem 3 false i (z.val * 0x10000) (natBytes 0x10000 (c.z[z]).toNat)) else [])

/-- Items of a cluster: the banks assigned to the virtual device, and the cache lines it owns. -/
def clusterItems (s : State) (d : Vd) (cl : Fin 128) : List (List Byte) :=
  let x := getCl s cl
  let bank (b : Nat) : List Byte :=
    if bankMode x b == 2 then ((x.fifo[Fin.ofNat 32 b]).map (fun w => natBytes 8 w.toNat)).flatten
    else s.loc.readList (scratchKey cl.val (b * 0x20000)) 0x20000
  let banks := ((List.range 32).filter (fun b => d.banks.getLsbD b && bankMode x b != 0)).map (fun b =>
    dumpItem 4 (touchesPoison s.locPoison (scratchKey cl.val (b * 0x20000)) 0x20000 || x.fifoBad.any (fun q => q.1.val == b)) cl.val (b * 0x20000) (bank b))
  let lines := (x.lines.filter (fun l => l.vdid == d.vdid)).map (fun l =>
    dumpItem 5 (homeRead s (l.line * 128) 128).2 cl.val (l.line * 128) (homeReadList s (l.line * 128) 128))
  let us := (x.us.filter (fun l => l.vdid == d.vdid)).map (fun l => dumpItem 5 (l.poison != 0) cl.val (l.line * 128) (natBytes 128 l.data.toNat))
  let ws := (x.ws.filter (fun l => l.vdid == d.vdid)).map (fun l => dumpItem 5 (l.poison != 0) cl.val (l.line * 128) (natBytes 128 l.data.toNat))
  banks ++ lines ++ us ++ ws

/-- The items of a dump, each with the cluster that it comes from. -/
def dumpItems (s : State) (d : Vd) : List (Nat × List Byte) :=
  (dumpCores s d).flatMap (fun c => (coreItems s d c).map (fun b => ((coreCluster c.index).val, b)))
    ++ ((List.finRange 128).filter (fun cl => vdInCluster d cl.val)).flatMap (fun cl => (clusterItems s d cl).map (fun b => (cl.val, b)))

/-- What a dump is charged: each item, in the dump and trace class, on its way from its cluster to the destination (R267). -/
def dumpPays (s : State) (d : Vd) (pa : Nat) (items : List (Nat × List Byte)) : State :=
  mapPart s (fun p => (items.foldl (fun (a : Part × Nat) x =>
    (chargeHome a.1 d.vdid .trace x.1 a.2 x.2.length true, a.2 + x.2.length)) (p, pa)).1)

/-- Leading pieces of a stream that lie in a partition's granules: a write elsewhere fails (R397). -/
def piecesFit (p : Part) (partn : Nat) : Nat → List (List Byte) → Nat
  | _, [] => 0
  | pa, b :: t =>
    if paOk p partn pa && paOk p partn (pa + b.length - 1) then piecesFit p partn (pa + b.length) t + 1 else 0

/-- A stream cut into pieces of the lengths given; what it does not hold is zero. -/
def cutBytes : List Nat → List Byte → List (List Byte)
  | [], _ => []
  | n :: t, l => (List.range n).map (fun i => (l[i]?).getD 0) :: cutBytes t (l.drop n)

/-- The name table: pid, tid and CGID of each group present (R307). -/
def nameTable (s : State) (v : BitVec 6) : List Byte :=
  ((s.part.groups.filter (fun g => g.vdid == v)).map (fun g => u32 g.pid.toNat ++ u32 g.tid.toNat ++ u32 g.cgid.toNat ++ u32 0)).flatten

def nonceBytes (x : Dump) : List Byte := u32 x.slot ++ u64 x.count.toNat

/-- The header of a dump. -/
def dumpHeader (x : Dump) (names items bytes : Nat) : List Byte :=
  [0x44, 0x39, 0x44, 0x4D] ++ u16 1 ++ [BitVec.ofNat 8 x.vdid.toNat, 0] ++ nonceBytes x ++ u32 names ++ u64 items
    ++ u64 (64 + 16 * names + bytes + 16) ++ List.replicate 24 0

/-- DUMP REQUEST: refused in the cases of R397; else the dump runs, and the key store's counter advances. -/
def execDumpRequest (vdid : Nat) (pa : Word) (s : State) : Out :=
  match findVd s.part (BitVec.ofNat 6 vdid) with
  | none => .next s
  | some d =>
    if 64 ≤ vdid || s.part.dump.isSome || !paOk s.part d.part.toNat pa.toNat
        || !s.part.keys.any (fun k => k.slot == d.dkey) || s.part.nonce == BitVec.allOnes 64 then .next s
    else .next { s with part := { s.part with nonce := s.part.nonce + 1, dump := some ⟨d.vdid, pa.toNat, d.dkey, s.part.nonce⟩ } }

/-- DUMP COMPLETE: the stream stands at its destination, its items encrypted. At a write that fails it ends with the item before,
without a tag: one outside the partition's granules, or, with `destBad`, one that the destination refuses, at a piece left open
(R397; log 69). -/
def execDumpComplete (destBad : Bool) (s : State) : Out :=
  match s.part.dump with
  | none => .next s
  | some x =>
    let s0 := { s with part := { s.part with dump := none }, free := s.free + 1 }
    match findVd s.part x.vdid, s.part.keys.find? (fun k => k.slot == x.slot) with
    | some d, some k =>
      let items := dumpItems s d
      let plain := (items.map (·.2)).flatten
      let names := nameTable s x.vdid
      let head := dumpHeader x (names.length / 16) items.length plain.length
      let aad := head ++ names
      let pieces := aad :: cutBytes (items.map (·.2.length)) (Config.gcmCipher k.key (nonceBytes x) aad plain)
        ++ cutBytes [16] (Config.gcmTag k.key (nonceBytes x) aad plain)
      let fit := piecesFit s.part d.part.toNat x.dest pieces
      let n := if destBad then min fit (Config.failedPiece s.free % pieces.length) else fit
      .next (homeWrite (dumpPays s0 d (x.dest + aad.length) (items.take (n - 1))) x.dest (pieces.take n).flatten)
    | _, _ => .next s0

end Sys2Proof.Machine
end

