-- ==== Sys2Proof/Machine/Mgmt.lean ====
section
/-! DEFINITION. Command windows (R288): installs of virtual devices (R261, R272, R273), launches, collectives (R289), dump
keys, the clock mode (R296); the partition table (R270, R271); messages of management (R294, R298). -/

namespace Sys2Proof.Machine

open Sys2Proof

/-! ## Windows (R288) -/

/-- The partition that holds a system core (R270). -/
def winPart (p : Part) (j : Fin 16) : Fin 16 :=
  ((List.finRange 16).find? (fun i => (p.parts[i]).sysCores.getLsbD j.val)).getD 0

def setWin (s : State) (j : Fin 16) (f : Window → Window) : State :=
  { s with part := { s.part with windows := s.part.windows.set j (f s.part.windows[j]) } }

/-- A command of a window that is done with a code; arg0 may be replaced by a result, arg1 stands (R288). -/
def winDone (s : State) (j : Fin 16) (cmd : BitVec 8) (a0 : Word) (code : Nat) : Out :=
  .next (setWin { s with part := { s.part with winQueue := s.part.winQueue.filter (fun k => k != j) } } j
    (fun w => { w with cmd := cmd, arg0 := a0, st := 2, code := BitVec.ofNat 8 code }))

/-- A command with a second argument begins. -/
def withArg1 (s : State) (j : Fin 16) (a1 : Word) : State := setWin s j (fun w => { w with arg1 := a1 })

/-- n bytes at a physical address lie in granules of a partition, 1 GiB or less apart. -/
def spanOk (p : Part) (partn : Nat) (pa n : Nat) : Bool := paOk p partn pa && paOk p partn (pa + n - 1)

/-! ## Rate records (R261) -/

/-- The smallest cap among the instances of a kind; kind 6 by the shared cores of the partition. -/
def kindCap (sharedCores kind : Nat) : Nat :=
  if kind = 0 then 16384 else if kind = 1 then 4266 else if kind = 2 then 4096 else if kind = 3 then 26666
  else if kind = 4 then 1333 else if kind = 5 then 16384 else 1024 * sharedCores

def parseRate (raw : Nat) : RateRec :=
  { guaranteed := recField raw 0 1 == 1
    ins := BitVec.ofNat 2 (recField raw 1 1), ways := recField raw 2 1, acc := recField raw 3 1
    rate := Vector.ofFn (fun i : Fin 7 => recField raw (0x08 + 8 * i.val) 4)
    depth := Vector.ofFn (fun i : Fin 7 => recField raw (0x0C + 8 * i.val) 4)
    status := recWord raw 0x40
    slots := Vector.ofFn (fun i : Fin 4 => (BitVec.ofNat 32 (recField raw (0x48 + 8 * i.val) 4), BitVec.ofNat 32 (recField raw (0x4C + 8 * i.val) 4))) }

/-- The limits of the table of R261 on one record. At the matrix arbiter r may exceed D, as the records of R319 and R333 do, which the
spec says meet R261 (log 34). -/
def rateOk (sharedCores raw : Nat) : Bool :=
  let r := parseRate raw
  let ins := recField raw 1 1
  decide (recField raw 0 1 ≤ 1) && (if r.guaranteed then decide (ins ≤ 1) else ins == 2)
    && decide (r.ways ≤ 28) && (r.guaranteed || r.ways == 0) && decide (r.acc ≤ 16) && recField raw 4 4 == 0
    && (List.finRange 7).all (fun k =>
      if r.guaranteed then
        decide (16 * r.rate[k] ≤ 15 * kindCap sharedCores k.val) && (k == 0 || decide (r.rate[k] ≤ r.depth[k])) && decide (r.depth[k] ≤ 2 ^ 24)
      else r.rate[k] == 0 && r.depth[k] == 0)
    && recField raw 0x40 8 % 128 == 0 && decide (recField raw 0x40 8 < 2 ^ 48)
    && (List.range 4).all (fun i =>
      let x := recField raw (0x48 + 8 * i) 8
      let kind := x % 16
      (decide (kind ≤ 6) || kind == 15) && x / 16 % 2 ^ 12 == 0 && decide (x < 2 ^ 32))
    && recField raw 0x68 24 == 0

/-- The sums of R261 over the virtual devices that stay and the new one. -/
def sumsOk (rest : List Vd) (d : Vd) : Bool :=
  let all := d :: rest
  let mine := all.filter (fun x => x.part == d.part)
  let shared := (maskCores (mine.foldl (fun m x => m ||| x.shared) 0)).length
  let sum (l : List Vd) (k : Fin 7) : Nat := l.foldl (fun n x => n + x.rate.rate[k]) 0
  (List.finRange 7).all (fun k => decide (16 * sum (if k = 6 then mine else all) k ≤ 15 * kindCap shared k.val))
    && (List.range 128).all (fun c =>
      let here := all.filter (fun x => vdInCluster x c)
      decide (here.foldl (fun n x => n + x.rate.ways) 0 ≤ 28) && decide (here.foldl (fun n x => n + x.rate.acc) 0 ≤ 16))

/-! ## Virtual-device records (R272, R273) -/

def powerOfTwo (n : Nat) : Bool := (List.range 17).any (fun k => n == 2 ^ k)

/-- The limits of R272 on a record whose op is 1. -/
def vdFieldsOk (raw : Nat) : Bool :=
  decide (recField raw 0x000 1 ≤ 63) && recField raw 0x002 2 == 0 && decide (recField raw 0x004 4 ≤ 10000)
    && recField raw 0x008 8 % 4096 == 0 && recField raw 0x010 8 % 128 == 0 && recField raw 0x018 8 % 2 ^ 21 == 0
    && recField raw 0x020 8 % 4096 == 0 && powerOfTwo (recField raw 0x028 4) && decide (64 ≤ recField raw 0x028 4)
    && powerOfTwo (recField raw 0x02C 4) && decide (64 ≤ recField raw 0x02C 4) && recField raw 0x030 8 % 4096 == 0
    && decide (recField raw 0x038 2 ≤ 63) && recField raw 0x03E 2 == 0 && recField raw 0x060 32 == 0
    && recField raw 0x180 128 == 0

/-- The record's virtual device in a partition; `old` is the one it replaces. -/
def parseVd (raw : Nat) (partn : BitVec 4) (rate : RateRec) (old : Option Vd) : Vd :=
  let budget := recField raw 0x004 4
  let faultq := recWord raw 0x020
  let faultn := recField raw 0x028 4
  let stampq := recWord raw 0x030
  let stampn := recField raw 0x02C 4
  let keep (q : Vd → RecQ) (same : Vd → Bool) : RecQ := match old with
    | some o => if same o then q o else ⟨0, 0, 0⟩
    | none => ⟨0, 0, 0⟩
  { vdid := BitVec.ofNat 6 (recField raw 0x000 1), part := partn
    budget := if budget != 0 then budget else (old.map (·.budget)).getD 100
    root := recField raw 0x008 8, save := recField raw 0x018 8
    faultq := faultq, faultn := faultn, stampq := stampq, stampn := stampn
    dkey := recField raw 0x038 2, fports := BitVec.ofNat 16 (recField raw 0x03A 2), xdef := BitVec.ofNat 16 (recField raw 0x03C 2)
    sems := recWord raw 0x040, cds := BitVec.ofNat 32 (recField raw 0x048 4), banks := BitVec.ofNat 32 (recField raw 0x04C 4)
    ports := BitVec.ofNat 128 (recField raw 0x050 16)
    excl := BitVec.ofNat 1024 (recField raw 0x080 128), shared := BitVec.ofNat 1024 (recField raw 0x100 128), rate := rate
    fq := keep (·.fq) (fun o => o.faultq == faultq && o.faultn == faultn)
    sq := keep (·.sq) (fun o => o.stampq == stampq && o.stampn == stampn)
    count := (old.map (·.count)).getD 0
    queues := (old.map (·.queues)).getD (Vector.replicate 8 [])
    resume := (old.map (·.resume)).getD (Vector.replicate 8 []) }

/-- A core that no install may name: its cluster is absent, or boot found fewer than 16 live lanes (R3, R300). -/
def coreAbsent (p : Part) (i : Nat) : Bool :=
  !p.present.getLsbD (i / 8) || (decide (2 ≤ p.bootStage) && decide (liveLanes (Config.trimmedLanes i) < 16))

/-- Cores of the clusters attached to a partition's system cores (R25, R270). -/
def coreInPart (p : Part) (partn : Fin 16) (i : Nat) : Bool := (p.parts[partn]).sysCores.getLsbD (i / 64)

/-- Status 2 of R273. -/
def coresBad (p : Part) (partn : Fin 16) (d : Vd) : Bool :=
  (maskCores (d.excl ||| d.shared)).any (fun i => !coreInPart p partn i || coreAbsent p i)

/-- Status 3 of R273 against another virtual device. A core is exclusive to one virtual device (R254), so the other's
exclusive cores count as well as the record's (log 22). -/
def clashes (d o : Vd) : Bool :=
  d.excl &&& (o.excl ||| o.shared) != 0 || d.shared &&& o.excl != 0 || d.dkey == o.dkey
    || ((d.banks &&& o.banks != 0 || d.sems &&& o.sems != 0 || d.cds &&& o.cds != 0)
        && (List.range 128).any (fun c => vdInCluster d c && vdInCluster o c))

/-- Status 4 of R273 for an install: a core that leaves while a group of the virtual device runs on it or is saved from it. A core
that the group has already left is no reason (R163). -/
def losesCore (s : State) (old d : Vd) : Bool :=
  let gone := (old.excl ||| old.shared) &&& ~~~(d.excl ||| d.shared)
  s.part.groups.any (fun g => g.vdid == d.vdid &&
    (heldCores s g ++ g.saved.map (fun c => c.index.val)).any (fun i => gone.getLsbD i))

/-- Whether any group of a virtual device runs, is saved or is queued. -/
def hasGroups (p : Part) (d : Vd) : Bool :=
  p.groups.any (fun g => g.vdid == d.vdid) || d.queues.toList.any (fun q => !q.isEmpty)

/-- xdef written into XMASK of each core of the virtual device; bits 15..12 are reserved (R274). -/
def giveXmask (s : State) (d : Vd) : State :=
  (List.finRange 1024).foldl (fun t i =>
    if (d.excl ||| d.shared).getLsbD i.val then t.putCore { t.getCore i with xmask := d.xdef.extractLsb' 0 12, part := d.part } else t) s

/-- Every translation of a virtual device removed, as by tlbinv.all. -/
def dropVdTlb (s : State) (v : BitVec 6) : State := dropTlb s (fun t => t.vdid == v) (fun t => t.vdid == v)

/-- An accepted install (R273). -/
def installVd (s : State) (old : Option Vd) (d : Vd) : State :=
  let p := s.part
  let was := (old.map (fun o => o.excl ||| o.shared)).getD 0
  let now := d.excl ||| d.shared
  let p1 := { p with
    vds := match old with
      | some _ => (setVd p d).vds
      | none => p.vds ++ [d]
    scrubDue := p.scrubDue ||| (was ^^^ now) }
  let p2 := match old with
    | some _ => p1
    | none => { countWindows p1 (newBuckets p1 d) with buckets := p1.buckets ++ newBuckets p1 d }
  let s1 := giveXmask { s with part := p2 } d
  match old with
  | some o => if o.root == d.root then s1 else dropVdTlb s1 d.vdid
  | none => dropVdTlb s1 d.vdid

/-- A removal (R273). -/
def removeVd (s : State) (d : Vd) : State :=
  let p := s.part
  dropVdTlb { s with part := { p with
    vds := p.vds.filter (fun x => x.vdid != d.vdid), buckets := p.buckets.filter (fun b => b.vdid != d.vdid)
    areqs := p.areqs.filter (fun r => r.vdid != d.vdid), scrubDue := p.scrubDue ||| d.excl ||| d.shared } } d.vdid

/-- The status of a record and the state it leaves; statuses in ascending order, but for op 0 (R273; log 22). -/
def tryInstall (s : State) (partn : Fin 16) (raw : Nat) : State × Nat :=
  let p := s.part
  let op := recField raw 1 1
  let pn : BitVec 4 := BitVec.ofNat 4 partn.val
  let found := if recField raw 0 1 ≤ 63 then findVd p (BitVec.ofNat 6 (recField raw 0 1)) else none
  if op == 0 then
    match found with
    | none => (s, 5)
    | some d => if d.part != pn then (s, 5) else if hasGroups p d then (s, 4) else (removeVd s d, 0)
  else
    let ratePa := recField raw 0x010 8
    if op != 1 || !vdFieldsOk raw || !spanOk p partn.val ratePa 128 then (s, 1)
    else
      let s1 := homeLines s ratePa 128
      let rr := homeRead s1 ratePa 128
      let old := found.filter (fun d => d.part == pn)
      let d := parseVd raw pn (parseRate rr.1) old
      let rest := p.vds.filter (fun x => x.vdid != d.vdid)
      let shared := (maskCores ((rest.filter (fun x => x.part == pn)).foldl (fun m x => m ||| x.shared) d.shared)).length
      if rr.2 || !rateOk shared rr.1 || !sumsOk rest d then (s1, 1)
      else if coresBad p partn d then (s1, 2)
      else if rest.any (clashes d) then (s1, 3)
      else if (old.map (fun o => losesCore s o d)).getD false then (s1, 4)
      else if found.isSome && old.isNone then (s1, 5)
      else (installVd s1 old d, 0)

/-- A command that waits: the window reads busy. -/
def winBusy (s : State) (j : Fin 16) (f : Window → Window) : Out :=
  .next (setWin { s with part := { s.part with winQueue := if s.part.winQueue.contains j then s.part.winQueue else s.part.winQueue ++ [j] } } j
    (fun w => { f w with st := 1, code := 0 }))

/-- Whether a span that a command reads meets the frame closed for a handover: the command waits (R106). -/
def spanClosed (s : State) (pa n : Nat) : Bool := frameClosed s.coh pa || frameClosed s.coh (pa + n - 1)

/-- INSTALL VIRTUAL DEVICE RECORD: command 1 of a window. -/
def execInstallVirtualDeviceRecord (win : Fin 16) (pa : Word) (s : State) : Out :=
  let partn := winPart s.part win
  let wait : Out := winBusy s win (fun w => { w with cmd := 1, arg0 := pa })
  if pa.toNat % 512 != 0 || !spanOk s.part partn.val pa.toNat 512 then winDone s win 1 pa 1
  else if spanClosed s pa.toNat 512 then wait
  else
    let s1 := homeLines s pa.toNat 512
    let rr := homeRead s1 pa.toNat 512
    if rr.2 then winDone s1 win 1 pa 1
    else if recField rr.1 1 1 == 1 && spanClosed s1 (recField rr.1 0x010 8) 128 then wait
    else
      let r := tryInstall s1 partn rr.1
      winDone r.1 win 1 pa r.2

/-! ## Launches by command 2 -/

/-- LAUNCH COMMAND: command 2, for a virtual device of the window's partition. -/
def execLaunchCommand (win : Fin 16) (va vdid : Word) (pid tid : BitVec 32) (s : State) : Out :=
  let done (t : State) (code : Nat) : Out := winDone (withArg1 t win vdid) win 2 va code
  let wait : Out := winBusy s win (fun w => { w with cmd := 2, arg0 := va, arg1 := vdid, pid := pid, tid := tid })
  match findVd s.part (vdid.extractLsb' 0 6) with
  | none => done s 4
  | some d =>
    if d.part.toNat != (winPart s.part win).val then done s 4
    else if !alignedTo va 64 then done s 6
    else
      match readPieces s (vdCheck s d .load) (vdCluster d) 4 va with
      | .stall => wait
      | .fault _ _ => done s 6
      | .poison leaf x => done (setPseenAt (recordLoads (vdCheck s d .load) (vdCluster d) d.vdid (fun x _ => partWay s x (.semantic 7))
            ((x - va).toNat / 64 + 1) va s) (vdCluster d) d.vdid leaf) 6
      | .ok raw =>
        let s0 := recordLoads (vdCheck s d .load) (vdCluster d) d.vdid (fun x _ => partWay s x (.semantic 7)) 4 va s
        match accept s0 d raw va ⟨0xFFFFFFFF, 0xFFFF, 0, pid, tid⟩ with
        | .stall => wait
        | .full => done s0 2
        | .badShape t => done t 3
        | .badDep t => done t 5
        | .ok t cgid => winDone (withArg1 t win vdid) win 2 (cgid.zeroExtend 64) 0

/-! ## Collectives (R289) -/

/-- REGISTER COLLECTIVE: command 3. -/
def execRegisterCollective (win : Fin 16) (pa : Word) (s : State) : Out :=
  let partn := (winPart s.part win).val
  let a := pa.toNat
  let wait : Out := winBusy s win (fun w => { w with cmd := 3, arg0 := pa })
  if !spanOk s.part partn a 16 then winDone s win 3 pa 1
  else if spanClosed s a 16 then wait
  else
    let s0 := homeLines s a 16
    let h := homeRead s0 a 16
    let n := recField h.1 8 2
    let id := recWord h.1 0
    if h.2 || id == 0 || n == 0 || decide (4096 < n) || recField h.1 0x0A 6 != 0 || !spanOk s.part partn a (16 + 8 * n) then
      winDone s0 win 3 pa 1
    else if spanClosed s0 a (16 + 8 * n) then wait
    else
      let s1 := homeLines s0 a (16 + 8 * n)
      let l := (List.range n).map (fun i => homeRead s1 (a + 16 + 8 * i) 8)
      if l.any (fun x => x.2 || decide (2 ^ 34 ≤ x.1)) then winDone s1 win 3 pa 1
      else if s1.part.colls.any (fun c => c.id == id) then winDone s1 win 3 pa 2
      else if 256 ≤ s1.part.colls.length then winDone s1 win 3 pa 3
      else
        let c : Collective := ⟨id, n, l.map (fun x => (BitVec.ofNat 24 x.1, x.1 / 2 ^ 24))⟩
        winDone { s1 with part := { s1.part with colls := s1.part.colls ++ [c] } } win 3 pa 0

/-- Whether a core of the part has an id joined. -/
def isJoined (s : State) (id : Word) : Bool :=
  s.cores.any (fun c => c.colls.toList.any (fun x => (x.map (fun k => k.id == id)).getD false))

/-- UNREGISTER COLLECTIVE: command 4. -/
def execUnregisterCollective (win : Fin 16) (id : Word) (s : State) : Out :=
  if !s.part.colls.any (fun c => c.id == id) then winDone s win 4 id 2
  else if isJoined s id then winDone s win 4 id 4
  else winDone { s with part := { s.part with colls := s.part.colls.filter (fun c => c.id != id) } } win 4 id 0

/-! ## Dump keys and the clock mode -/

/-- INSTALL DUMP KEY: command 5. -/
def execInstallDumpKey (win : Fin 16) (pa slot : Word) (s : State) : Out :=
  let partn := winPart s.part win
  let done (t : State) (code : Nat) : Out := winDone (withArg1 t win slot) win 5 pa code
  if 63 < slot.toNat || !spanOk s.part partn.val pa.toNat 32 then done s 1
  else
    let pn : BitVec 4 := BitVec.ofNat 4 partn.val
    if s.part.keys.any (fun k => k.slot == slot.toNat && k.part != pn) then done s 3
    else if spanClosed s pa.toNat 32 then winBusy s win (fun w => { w with cmd := 5, arg0 := pa, arg1 := slot })
    else
      let s1 := homeLines s pa.toNat 32
      let rest := s1.part.keys.filter (fun k => k.slot != slot.toNat)
      done { s1 with part := { s1.part with keys := rest ++ [⟨slot.toNat, homeReadList s1 pa.toNat 32, pn⟩] } } 0

/-- Locked mode takes hold: every die's sequencer aims at 1.0 GHz, every live lane is in use, no lane is gated, and a halving
ends (R296, R304). -/
def lockClock (s : State) : State :=
  let s1 := s.mapCores (fun c => { c with alcCeil := liveLanes c.lmap, alcCur := liveLanes c.lmap, gated := false })
  { s1 with part := { s1.part with
    lockedClock := true
    dies := s1.part.dies.map (fun d =>
      aimAt { d with phase := if d.phase == .halving then .nominal else d.phase, left := if d.phase == .halving then 0 else d.left } lowFreq) } }

/-- Nominal mode: the controller restores each die in its own steps (R304, R306). -/
def unlockClock (s : State) : State := { s with part := { s.part with lockedClock := false } }

/-- Every compute die runs at 1.0 GHz. -/
def atLocked (p : Part) : Bool := p.dies.all (fun d => d.freq == lowFreq)

/-- CLOCK MODE: command 6; the window reads busy until every die has come down to 1.0 GHz (R288, R296). -/
def execClockMode (win : Fin 16) (mode : Word) (s : State) : Out :=
  let done (t : State) (code : Nat) : Out := winDone t win 6 mode code
  if 1 < mode.toNat then done s 1
  else if !(s.part.parts[winPart s.part win]).clock then done s 4
  else if mode == 1 then
    let t := if s.part.lockedClock then s else lockClock s
    if atLocked t.part then done t 0 else winBusy t win (fun w => { w with cmd := 6, arg0 := mode })
  else done (if s.part.lockedClock then unlockClock s else s) 0

/-! ## Accesses to a window -/

/-- The command that a write of cmd starts. -/
def winCommand (j : Fin 16) (w : Window) : Option Instr :=
  let n := w.cmd.toNat
  if n = 1 then some (.installVirtualDeviceRecord j w.arg0)
  else if n = 2 then some (.launchCommand j w.arg0 w.arg1 w.pid w.tid)
  else if n = 3 then some (.registerCollective j w.arg0)
  else if n = 4 then some (.unregisterCollective j w.arg0)
  else if n = 5 then some (.installDumpKey j w.arg0 w.arg1)
  else if n = 6 then some (.clockMode j w.arg0)
  else none

/-- What a window's command names that another one may name too: a virtual device, a collective or a key slot (R288). -/
def winName (s : State) (w : Window) : Option (Nat × Nat) :=
  match w.cmd.toNat with
  | 1 => some (1, (homeRead s w.arg0.toNat 1).1)
  | 2 => some (1, (w.arg1.extractLsb' 0 6).toNat)
  | 3 => some (3, (homeRead s w.arg0.toNat 8).1)
  | 4 => some (3, w.arg0.toNat)
  | 5 => some (5, w.arg1.toNat)
  | _ => none

/-- The busy windows that may be served now. -/
def readyWindows (s : State) : List (Fin 16) → List (Nat × Nat) → List (Fin 16)
  | [], _ => []
  | j :: t, seen =>
    match winName s s.part.windows[j] with
    | none => j :: readyWindows s t seen
    | some x => if seen.contains x then readyWindows s t seen else j :: readyWindows s t (x :: seen)

/-- A write to a window by a system core or the host: an argument, or a command, which takes its place behind those that wait, and
is put next on the agenda when none of them is in its way; ignored while the window is busy, for another partition's window, and at
other offsets. A command of the host carries 0xFFFFFFFF and the window's index as its names (R307). -/
def windowPut (s : State) (host : Bool) (party : BitVec 4) (j : Fin 16) (off : Nat) (v : Word) (pid tid : BitVec 32) : State :=
  let w := s.part.windows[j]
  if party.toNat != (winPart s.part j).val then s
  else if off = 0x08 then setWin s j (fun w => { w with arg0 := v })
  else if off = 0x10 then setWin s j (fun w => { w with arg1 := v })
  else if off != 0 || w.st == 1 then s
  else
    let w1 := { w with cmd := v.extractLsb' 0 8, pid := if host then 0xFFFFFFFF else pid, tid := if host then BitVec.ofNat 32 j.val else tid }
    match winCommand j w1 with
    | some i =>
      let s1 := setWin { s with part := { s.part with winQueue := s.part.winQueue ++ [j] } } j (fun _ => { w1 with st := 1, code := 0 })
      if (readyWindows s1 s1.part.winQueue []).contains j then { s1 with agenda := .event i :: s1.agenda } else s1
    | none => setWin s j (fun _ => { w1 with st := 2, code := 0xFF })

/-- A read of a window, answered to the reader. -/
def windowGet (s : State) (party : BitVec 4) (j : Fin 16) (off : Nat) : State :=
  let w := s.part.windows[j]
  if party.toNat != (winPart s.part j).val then s
  else
    let v := if off = 0 then w.cmd.toNat else if off = 0x08 then w.arg0.toNat else if off = 0x10 then w.arg1.toNat
      else if off = 0x18 then w.st.toNat + 256 * w.code.toNat else 0
    answer s (.bytes (u64 v))

/-! ## The partition table (R270, R271, R291) -/

/-- A write of firmware into the table. -/
def tablePut (s : State) (t : TableWrite) : State :=
  let p := s.part
  match t with
  | .granule g i =>
    let cleared := p.parts.map (fun q => { q with granules := q.granules.filter (fun x => x != g) })
    let x := cleared[i]
    refreshRec { s with part := { p with parts := if i = 0 then cleared else cleared.set i { x with granules := x.granules ++ [g] } } }
  | .clock i on => { s with part := { p with parts := p.parts.set i { p.parts[i] with clock := on } } }
  | .rootPort k i => { s with part := { p with rootParts := p.rootParts.set k i } }

/-- A core as the scrub of a move leaves it, in its new partition: lanes, queues, tiles, caches and TLB reset (R271). -/
def movedCore (y : BitVec 4) (c : Core) : Core :=
  { c.bare with sBank := Vector.replicate 8 0, adv := Advice.off, advCnt := ⟨0, 0, 0, 0⟩, part := y, run := .off
                alcCeil := liveLanes c.lmap, alcCur := liveLanes c.lmap, gated := false, idleEdges := 0, icache := [], tlb := [] }

/-- Step 3 of R271 for one cluster: its stores and banks zeroed, its cache written back and invalidated. -/
def scrubCluster (s : State) (cl : Fin 128) : State :=
  let c := getCl s cl
  let lines := (c.lines.map (·.line) ++ c.us.map (·.line) ++ c.ws.map (·.line)).eraseDups
  let s1 := lines.foldl (fun t l => dropLine (mergeLine (flushW t cl l) l) cl l) s
  let s2 := setCl s1 cl Cluster.reset
  let cores := (List.finRange 8).map (fun i => cl.val * 8 + i.val)
  { s2 with
    loc := (cores.foldl (fun m i => m.makeZero (coreKey i 0) 0x80000) s2.loc).makeZero (scratchKey cl.val 0) 0x400000
    locPoison := s2.locPoison.filter (fun q =>
      !(cores.any (fun i => decide (coreKey i 0 / 32 ≤ q ∧ q < coreKey i 0 / 32 + 0x4000))
        || decide (scratchKey cl.val 0 / 32 ≤ q ∧ q < scratchKey cl.val 0 / 32 + 0x20000))) }

/-- PARTITION CORE MOVE: refused while a virtual device holds a core of the clusters, or where x does not hold j. -/
def execPartitionCoreMove (j x y : Fin 16) (s : State) : Out :=
  let mine (i : Nat) : Bool := i / 64 == j.val
  if !(s.part.parts[x]).sysCores.getLsbD j.val || s.part.vds.any (fun d => (maskCores (d.excl ||| d.shared)).any mine) then .next s
  else
    let s1 := ((List.finRange 128).filter (fun c => c.val / 8 == j.val)).foldl scrubCluster s
    let s2 := (List.finRange 1024).foldl (fun t i => if mine i.val then t.putCore (movedCore (BitVec.ofNat 4 y.val) (t.getCore i)) else t) s1
    let p := s2.part
    let p1 := { p with
      parts := Vector.ofFn (fun i : Fin 16 =>
        let q := p.parts[i]
        let out := q.sysCores &&& ~~~(BitVec.twoPow 16 j.val)
        { q with sysCores := if i = y then out ||| BitVec.twoPow 16 j.val else out })
      scrubDue := p.scrubDue &&& ~~~(coreMask ((List.range 64).map (fun k => 64 * j.val + k))) }
    .next { s2 with part := p1 }

/-! ## Attestation and monitoring (R294, R298; log 20) -/

/-- An answer to a message whose contents its own standard gives. -/
def managed (s : State) (n : Nat) : Out := .next (answer s (.bytes (Config.managementAnswer n)))

/-- GET_VERSION: SPDM 1.2. -/
def execGetVersion (s : State) : Out := managed s 0

/-- GET_CAPABILITIES. -/
def execGetCapabilities (s : State) : Out := managed s 1

/-- NEGOTIATE_ALGORITHMS: ECDSA P-384 with SHA-384, and no others. -/
def execNegotiateAlgorithms (p384 sha384 : Bool) (s : State) : Out :=
  let ok := p384 && sha384
  .next (answer { s with part := { s.part with algorithms := ok } } (.bytes (Config.managementAnswer (if ok then 2 else 3))))

def wideBytes (x : BitVec 384) : List Byte := natBytes 48 x.toNat

/-- GET_DIGESTS: the digest of the identity key's certificate chain. -/
def execGetDigests (s : State) : Out := .next (answer s (.bytes (wideBytes (Config.sha384 Config.certificateChain))))

/-- GET_CERTIFICATE. -/
def execGetCertificate (s : State) : Out := .next (answer s (.bytes Config.certificateChain))

/-- CHALLENGE: signed with the identity key, over the nonce and the measurements. -/
def execChallenge (nonce : List Byte) (s : State) : Out :=
  .next (answer s (.bytes (Config.spdmSignature (nonce ++ (s.part.mr.toList.map wideBytes).flatten))))

/-- GET_MEASUREMENTS: block i is MR(i - 1). -/
def execGetMeasurements (i : Nat) (s : State) : Out :=
  match s.part.mr.toList[i - 1]? with
  | some x => if i = 0 then managed s 4 else .next (answer s (.bytes (wideBytes x)))
  | none => managed s 4

/-- PLDM REQUEST: the sensors: temperature of each die, the system die last; package power; boot stage (R298). -/
def execPldmRequest (s : State) : Out :=
  let temps := (s.part.dies.toList.map (fun d => u16 (d.temp.emod (2 ^ 16)).toNat)).flatten
  .next (answer s (.bytes (temps ++ u16 (s.part.sysTemp.emod (2 ^ 16)).toNat ++ u32 ((s.part.watts.head?).getD 0) ++ u16 s.part.bootStage)))

/-- MCTP CONTROL MESSAGE. -/
def execMctpControlMessage (s : State) : Out := managed s 5

end Sys2Proof.Machine
end

