-- ==== Sys2Proof/Machine/Boot.lean ====
section
/-! DEFINITION. Reset and boot (R278, R292, R293, R300). -/

namespace Sys2Proof.Machine

open Sys2Proof

/-! ## Reset -/

/-- RESET: every register and table as after reset, every token at its home, boot stage 0. What memory holds then is not
stated, so its bytes are free values (log 23); what the part is stays: its clusters, its fabric address, its dies' fused tables, and
the key store's counter, which never comes again (R318). -/
def execReset (s : State) : Out :=
  .next { State.reset with
    mem := (Memory.empty).makeFree 0 (2 ^ 52) s.free, loc := (Memory.empty).makeFree 0 (2 ^ 41) s.free
    part := { Part.reset with present := s.part.present, fabric := s.part.fabric, nonce := s.part.nonce
                              dies := s.part.dies.map (fun d => { Die.reset with volts := d.volts }) }, agenda := s.agenda, free := s.free + 1 }

/-! ## The capability list (R278) -/

/-- The entries of this part: id and body. -/
def capEntries (p : Part) : List (Nat × List Byte) :=
  let clusters := presentBelow p.present 128
  [(0x0000, natBytes 16 p.present.toNat ++ u16 1200 ++ u16 (if clusters < 112 then 1300 else 1400) ++ u16 1024 ++ u16 0),
   (0x0001, natBytes 8 (16 + 25 * 2 ^ 8 + 16 * 2 ^ 16)),
   (0x0002, []),
   (0x0003, natBytes 8 0x3FEE),
   (0x0004, natBytes 8 (8192 + 64 * 2 ^ 16 + 32 * 2 ^ 24)),
   (0x0005, natBytes 8 4096),
   (0x0006, natBytes 8 p.cxlPorts.toNat ++ u64 p.cxlBytes),
   (0x0007, natBytes 8 65536),
   (0x0008, natBytes 8 (0xFFFF + 4096 * 2 ^ 16)),
   (0x0009, natBytes 8 4096),
   (0x000A, []),
   (0x000B, natBytes 8 1000),
   (0x000C, []),
   (0x000D, [])]

/-- The chain of entries from an offset on. -/
def capChain : Nat → List (Nat × List Byte) → List Byte
  | _, [] => []
  | off, (id, body) :: t =>
    let next := off + 16 + body.length
    u16 id ++ [1, 0] ++ u32 body.length ++ u64 (if t.isEmpty then 0 else next) ++ body ++ capChain next t

/-! ## Boot stages (R293) -/

/-- CXL memory as boot stage 2 configures it: at most 4 TiB (R292). -/
def trainCxl (p : Part) : Part := { p with cxlPorts := Config.cxlPorts, cxlBytes := min Config.cxlFound (2 ^ 42) }

/-- Lanes trimmed on every core: LMAP, and ALC with it (R300, R301). -/
def trimLanes (s : State) : State :=
  (List.finRange 1024).foldl (fun t i =>
    let m := Config.trimmedLanes i.val
    t.putCore { t.getCore i with lmap := m, alcCeil := liveLanes m, alcCur := liveLanes m }) s

/-- Firmware writes the capability list into the part's capability frame (R277, R278). -/
def writeCaps (s : State) : State :=
  let l := capChain 0 (capEntries s.part)
  let t := homeWrite s (Config.capFrame * 2 ^ 16) l
  { t with part := { t.part with caps := l } }

/-- What a stage does once it runs. -/
def runStage (n : Nat) (s : State) : State :=
  if n = 2 then writeCaps (trimLanes { s with part := trainCxl s.part })
  else if n = 3 then { s with part := { s.part with parts := Vector.ofFn Partition.reset } }
  else s

/-- A measurement register extended by an image: MR := SHA-384(MR ‖ digest). -/
def extend (mr : Vector (BitVec 384) 8) (k : Fin 8) (image : List Byte) : Vector (BitVec 384) 8 :=
  mr.set k (Config.sha384 (natBytes 48 (mr[k]).toNat ++ natBytes 48 (Config.sha384 image).toNat))

/-- The measurement register that the image loaded in a stage goes to: a loader, loaded by stage 3, to MR3. -/
def measured (s : State) (stage : Nat) (image : List Byte) : Vector (BitVec 384) 8 :=
  extend s.part.mr (Fin.ofNat 8 (min stage 3)) image

/-- A partition loader extends one of MR4 to MR7; there is one once boot has reached stage 3. -/
def extendMr (s : State) (k : Fin 4) (image : List Byte) : State :=
  if s.part.bootStage < 3 then s
  else { s with part := { s.part with mr := extend s.part.mr (Fin.ofNat 8 (4 + k.val)) image } }

/-- A refused image holds the part in reset: cores and clusters stand as after reset. The stage and the cause, 1 for the signature
and 2 for the version, go out over the sideband. -/
def holdBoot (s : State) (cause : Nat) : State :=
  let t := { s with core := Core.reset 0, rest := [], clusters := Vector.replicate 128 Cluster.reset, coh := Coherence.reset, deps := []
                    part := { s.part with bootHeld := some s.part.bootStage } }
  answer t (.bytes (u16 s.part.bootStage ++ u16 cause))

/-- BOOT STAGE: the stage that runs verifies the next image, measures it and starts it. -/
def execBootStage (image : List Byte) (s : State) : Out :=
  let n := s.part.bootStage
  if s.part.bootHeld.isSome then .next s
  else if !Config.imageVerified n image then .next (holdBoot s 1)
  else if Config.imageVersion image < Config.fusedVersion then .next (holdBoot s 2)
  else
    let next := min (n + 1) 3
    let s1 := { s with part := { s.part with mr := measured s n image, bootStage := next } }
    .next (if n < 3 then runStage next s1 else s1)

end Sys2Proof.Machine
end

