-- ==== Sys2Proof/Machine/Dispatch.lean ====
section
/-! DEFINITION. One arm per instruction: a direct call of its meaning. -/

namespace Sys2Proof.Machine

open Sys2Proof

/-- The meaning of an instruction. -/
def exec (i : Instr) (s : State) : Host.Outcome State Fault Refusal :=
  match i with
  | .add x0 x1 x2 => Sys2Proof.Machine.execAdd x0 x1 x2 s
  | .sub x0 x1 x2 => Sys2Proof.Machine.execSub x0 x1 x2 s
  | .mul x0 x1 x2 => Sys2Proof.Machine.execMul x0 x1 x2 s
  | .mulh x0 x1 x2 => Sys2Proof.Machine.execMulh x0 x1 x2 s
  | .mulhn x0 x1 x2 => Sys2Proof.Machine.execMulhn x0 x1 x2 s
  | .div x0 x1 x2 => Sys2Proof.Machine.execDiv x0 x1 x2 s
  | .divn x0 x1 x2 => Sys2Proof.Machine.execDivn x0 x1 x2 s
  | .rem x0 x1 x2 => Sys2Proof.Machine.execRem x0 x1 x2 s
  | .remn x0 x1 x2 => Sys2Proof.Machine.execRemn x0 x1 x2 s
  | .and x0 x1 x2 => Sys2Proof.Machine.execAnd x0 x1 x2 s
  | .or x0 x1 x2 => Sys2Proof.Machine.execOr x0 x1 x2 s
  | .xor x0 x1 x2 => Sys2Proof.Machine.execXor x0 x1 x2 s
  | .andn x0 x1 x2 => Sys2Proof.Machine.execAndn x0 x1 x2 s
  | .orn x0 x1 x2 => Sys2Proof.Machine.execOrn x0 x1 x2 s
  | .shl x0 x1 x2 => Sys2Proof.Machine.execShl x0 x1 x2 s
  | .shr x0 x1 x2 => Sys2Proof.Machine.execShr x0 x1 x2 s
  | .sra x0 x1 x2 => Sys2Proof.Machine.execSra x0 x1 x2 s
  | .rot x0 x1 x2 => Sys2Proof.Machine.execRot x0 x1 x2 s
  | .slt x0 x1 x2 => Sys2Proof.Machine.execSlt x0 x1 x2 s
  | .sltn x0 x1 x2 => Sys2Proof.Machine.execSltn x0 x1 x2 s
  | .seq x0 x1 x2 => Sys2Proof.Machine.execSeq x0 x1 x2 s
  | .min x0 x1 x2 => Sys2Proof.Machine.execMin x0 x1 x2 s
  | .max x0 x1 x2 => Sys2Proof.Machine.execMax x0 x1 x2 s
  | .minn x0 x1 x2 => Sys2Proof.Machine.execMinn x0 x1 x2 s
  | .maxn x0 x1 x2 => Sys2Proof.Machine.execMaxn x0 x1 x2 s
  | .clz x0 x1 x2 => Sys2Proof.Machine.execClz x0 x1 x2 s
  | .ctz x0 x1 x2 => Sys2Proof.Machine.execCtz x0 x1 x2 s
  | .popc x0 x1 x2 => Sys2Proof.Machine.execPopc x0 x1 x2 s
  | .sxt x0 x1 x2 x3 => Sys2Proof.Machine.execSxt x0 x1 x2 x3 s
  | .zxt x0 x1 x2 x3 => Sys2Proof.Machine.execZxt x0 x1 x2 x3 s
  | .li x0 x1 => Sys2Proof.Machine.execLi x0 x1 s
  | .mov x0 x1 x2 => Sys2Proof.Machine.execMov x0 x1 x2 s
  | .sel x0 x1 x2 x3 => Sys2Proof.Machine.execSel x0 x1 x2 x3 s
  | .lea x0 x1 x2 => Sys2Proof.Machine.execLea x0 x1 x2 s
  | .leaPc x0 x1 => Sys2Proof.Machine.execLeaPc x0 x1 s
  | .ld x0 x1 x2 x3 => Sys2Proof.Machine.execLd x0 x1 x2 x3 s
  | .st x0 x1 x2 x3 => Sys2Proof.Machine.execSt x0 x1 x2 x3 s
  | .ldl x0 x1 x2 x3 => Sys2Proof.Machine.execLdl x0 x1 x2 x3 s
  | .stl x0 x1 x2 x3 => Sys2Proof.Machine.execStl x0 x1 x2 x3 s
  | .amo x0 x1 x2 x3 x4 x5 x6 x7 => Sys2Proof.Machine.execAmo x0 x1 x2 x3 x4 x5 x6 x7 s
  | .amoCas x0 x1 x2 x3 x4 x5 x6 x7 => Sys2Proof.Machine.execAmoCas x0 x1 x2 x3 x4 x5 x6 x7 s
  | .semtas x0 => Sys2Proof.Machine.execSemtas x0 s
  | .semtry x0 x1 => Sys2Proof.Machine.execSemtry x0 x1 s
  | .semset x0 => Sys2Proof.Machine.execSemset x0 s
  | .semclr x0 => Sys2Proof.Machine.execSemclr x0 s
  | .cdrd x0 x1 => Sys2Proof.Machine.execCdrd x0 x1 s
  | .cdwr x0 x1 => Sys2Proof.Machine.execCdwr x0 x1 s
  | .cdadd x0 x1 x2 => Sys2Proof.Machine.execCdadd x0 x1 x2 s
  | .bcc x0 x1 x2 x3 => Sys2Proof.Machine.execBcc x0 x1 x2 x3 s
  | .jmpReg x0 => Sys2Proof.Machine.execJmpReg x0 s
  | .jmpOff x0 => Sys2Proof.Machine.execJmpOff x0 s
  | .callReg x0 x1 => Sys2Proof.Machine.execCallReg x0 x1 s
  | .callOff x0 x1 => Sys2Proof.Machine.execCallOff x0 x1 s
  | .ret x0 => Sys2Proof.Machine.execRet x0 s
  | .bq x0 x1 => Sys2Proof.Machine.execBq x0 x1 s
  | .bflag x0 x1 x2 => Sys2Proof.Machine.execBflag x0 x1 x2 s
  | .setvl x0 x1 x2 x3 x4 => Sys2Proof.Machine.execSetvl x0 x1 x2 x3 x4 s
  | .setvlTeam x0 x1 x2 x3 x4 x5 => Sys2Proof.Machine.execSetvlTeam x0 x1 x2 x3 x4 x5 s
  | .belayPoint x0 x1 => Sys2Proof.Machine.execBelayPoint x0 x1 s
  | .cairn x0 => Sys2Proof.Machine.execCairn x0 s
  | .qpush x0 x1 => Sys2Proof.Machine.execQpush x0 x1 s
  | .qpop x0 => Sys2Proof.Machine.execQpop x0 s
  | .launch x0 x1 => Sys2Proof.Machine.execLaunch x0 x1 s
  | .trap x0 => Sys2Proof.Machine.execTrap x0 s
  | .eret => Sys2Proof.Machine.execEret s
  | .yield => Sys2Proof.Machine.execYield s
  | .sysrd x0 x1 => Sys2Proof.Machine.execSysrd x0 x1 s
  | .syswr x0 x1 => Sys2Proof.Machine.execSyswr x0 x1 s
  | .cbmodeWrite x0 => Sys2Proof.Machine.execCbmodeWrite x0 s
  | .bankModeChangeDone x0 x1 => Sys2Proof.Machine.execBankModeChangeDone x0 x1 s
  | .advstStopWrite => Sys2Proof.Machine.execAdvstStopWrite s
  | .pghoWrite x0 => Sys2Proof.Machine.execPghoWrite x0 s
  | .handoverPass => Sys2Proof.Machine.execHandoverPass s
  | .handoverTimeout x0 x1 => Sys2Proof.Machine.execHandoverTimeout x0 x1 s
  | .tstamp x0 => Sys2Proof.Machine.execTstamp x0 s
  | .rdcycle x0 => Sys2Proof.Machine.execRdcycle x0 s
  | .pgrefInc x0 x1 => Sys2Proof.Machine.execPgrefInc x0 x1 s
  | .pgrefDec x0 x1 => Sys2Proof.Machine.execPgrefDec x0 x1 s
  | .pgrefRd x0 x1 => Sys2Proof.Machine.execPgrefRd x0 x1 s
  | .tlbinvPage x0 => Sys2Proof.Machine.execTlbinvPage x0 s
  | .tlbinvAll => Sys2Proof.Machine.execTlbinvAll s
  | .wait x0 => Sys2Proof.Machine.execWait x0 s
  | .halt => Sys2Proof.Machine.execHalt s
  | .nop => Sys2Proof.Machine.execNop s
  | .vadd x0 x1 x2 x3 => Sys2Proof.Machine.execVadd x0 x1 x2 x3 s
  | .vsub x0 x1 x2 x3 => Sys2Proof.Machine.execVsub x0 x1 x2 x3 s
  | .vmul x0 x1 x2 x3 => Sys2Proof.Machine.execVmul x0 x1 x2 x3 s
  | .vmulh x0 x1 x2 x3 => Sys2Proof.Machine.execVmulh x0 x1 x2 x3 s
  | .vfma x0 x1 x2 x3 x4 x5 => Sys2Proof.Machine.execVfma x0 x1 x2 x3 x4 x5 s
  | .vfms x0 x1 x2 x3 x4 x5 => Sys2Proof.Machine.execVfms x0 x1 x2 x3 x4 x5 s
  | .vfnma x0 x1 x2 x3 x4 x5 => Sys2Proof.Machine.execVfnma x0 x1 x2 x3 x4 x5 s
  | .vdiv x0 x1 x2 x3 => Sys2Proof.Machine.execVdiv x0 x1 x2 x3 s
  | .vsqrt x0 x1 x2 => Sys2Proof.Machine.execVsqrt x0 x1 x2 s
  | .vrcp x0 x1 x2 => Sys2Proof.Machine.execVrcp x0 x1 x2 s
  | .vrsqrt x0 x1 x2 => Sys2Proof.Machine.execVrsqrt x0 x1 x2 s
  | .vexp2 x0 x1 x2 => Sys2Proof.Machine.execVexp2 x0 x1 x2 s
  | .vlog2 x0 x1 x2 => Sys2Proof.Machine.execVlog2 x0 x1 x2 s
  | .vmin x0 x1 x2 x3 => Sys2Proof.Machine.execVmin x0 x1 x2 x3 s
  | .vmax x0 x1 x2 x3 => Sys2Proof.Machine.execVmax x0 x1 x2 x3 s
  | .vabs x0 x1 x2 => Sys2Proof.Machine.execVabs x0 x1 x2 s
  | .vneg x0 x1 x2 => Sys2Proof.Machine.execVneg x0 x1 x2 s
  | .vand x0 x1 x2 x3 => Sys2Proof.Machine.execVand x0 x1 x2 x3 s
  | .vor x0 x1 x2 x3 => Sys2Proof.Machine.execVor x0 x1 x2 x3 s
  | .vxor x0 x1 x2 x3 => Sys2Proof.Machine.execVxor x0 x1 x2 x3 s
  | .vnot x0 x1 x2 => Sys2Proof.Machine.execVnot x0 x1 x2 s
  | .vshl x0 x1 x2 x3 => Sys2Proof.Machine.execVshl x0 x1 x2 x3 s
  | .vshr x0 x1 x2 x3 => Sys2Proof.Machine.execVshr x0 x1 x2 x3 s
  | .vsra x0 x1 x2 x3 => Sys2Proof.Machine.execVsra x0 x1 x2 x3 s
  | .vclz x0 x1 x2 => Sys2Proof.Machine.execVclz x0 x1 x2 s
  | .vpopc x0 x1 x2 => Sys2Proof.Machine.execVpopc x0 x1 x2 s
  | .vcmp x0 x1 x2 x3 x4 => Sys2Proof.Machine.execVcmp x0 x1 x2 x3 x4 s
  | .vclass x0 x1 x2 x3 => Sys2Proof.Machine.execVclass x0 x1 x2 x3 s
  | .vsel x0 x1 x2 x3 x4 => Sys2Proof.Machine.execVsel x0 x1 x2 x3 x4 s
  | .vcvt x0 x1 x2 x3 x4 x5 => Sys2Proof.Machine.execVcvt x0 x1 x2 x3 x4 x5 s
  | .vscale x0 x1 x2 x3 x4 => Sys2Proof.Machine.execVscale x0 x1 x2 x3 x4 s
  | .vpack x0 x1 x2 x3 => Sys2Proof.Machine.execVpack x0 x1 x2 x3 s
  | .vredsum x0 x1 x2 x3 => Sys2Proof.Machine.execVredsum x0 x1 x2 x3 s
  | .vredmax x0 x1 x2 x3 => Sys2Proof.Machine.execVredmax x0 x1 x2 x3 s
  | .vredmin x0 x1 x2 x3 => Sys2Proof.Machine.execVredmin x0 x1 x2 x3 s
  | .vperm x0 x1 x2 x3 => Sys2Proof.Machine.execVperm x0 x1 x2 x3 s
  | .vpermb x0 x1 x2 x3 x4 x5 => Sys2Proof.Machine.execVpermb x0 x1 x2 x3 x4 x5 s
  | .vslideup x0 x1 x2 x3 => Sys2Proof.Machine.execVslideup x0 x1 x2 x3 s
  | .vslidedown x0 x1 x2 x3 => Sys2Proof.Machine.execVslidedown x0 x1 x2 x3 s
  | .vcompress x0 x1 x2 x3 => Sys2Proof.Machine.execVcompress x0 x1 x2 x3 s
  | .vexpand x0 x1 x2 x3 => Sys2Proof.Machine.execVexpand x0 x1 x2 x3 s
  | .vbcast x0 x1 x2 x3 => Sys2Proof.Machine.execVbcast x0 x1 x2 x3 s
  | .vmv x0 x1 x2 x3 => Sys2Proof.Machine.execVmv x0 x1 x2 x3 s
  | .viota x0 x1 x2 => Sys2Proof.Machine.execViota x0 x1 x2 s
  | .viotaIdx x0 x1 => Sys2Proof.Machine.execViotaIdx x0 x1 s
  | .vmpop x0 x1 x2 => Sys2Proof.Machine.execVmpop x0 x1 x2 s
  | .vmfirst x0 x1 x2 => Sys2Proof.Machine.execVmfirst x0 x1 x2 s
  | .vany x0 x1 x2 => Sys2Proof.Machine.execVany x0 x1 x2 s
  | .mand x0 x1 x2 x3 => Sys2Proof.Machine.execMand x0 x1 x2 x3 s
  | .mor x0 x1 x2 x3 => Sys2Proof.Machine.execMor x0 x1 x2 x3 s
  | .mxor x0 x1 x2 x3 => Sys2Proof.Machine.execMxor x0 x1 x2 x3 s
  | .mnot x0 x1 x2 => Sys2Proof.Machine.execMnot x0 x1 x2 s
  | .mset x0 x1 x2 => Sys2Proof.Machine.execMset x0 x1 x2 s
  | .vdefer x0 x1 x2 x3 x4 x5 => Sys2Proof.Machine.execVdefer x0 x1 x2 x3 x4 x5 s
  | .vdrain x0 x1 x2 x3 x4 x5 x6 x7 x8 => Sys2Proof.Machine.execVdrain x0 x1 x2 x3 x4 x5 x6 x7 x8 s
  | .vhash x0 x1 x2 x3 => Sys2Proof.Machine.execVhash x0 x1 x2 x3 s
  | .vtoq x0 x1 => Sys2Proof.Machine.execVtoq x0 x1 s
  | .vld x0 x1 x2 x3 => Sys2Proof.Machine.execVld x0 x1 x2 x3 s
  | .vldff x0 x1 x2 x3 => Sys2Proof.Machine.execVldff x0 x1 x2 x3 s
  | .vst x0 x1 x2 x3 => Sys2Proof.Machine.execVst x0 x1 x2 x3 s
  | .vlds x0 x1 x2 x3 => Sys2Proof.Machine.execVlds x0 x1 x2 x3 s
  | .vsts x0 x1 x2 x3 => Sys2Proof.Machine.execVsts x0 x1 x2 x3 s
  | .vldseg x0 x1 x2 x3 x4 => Sys2Proof.Machine.execVldseg x0 x1 x2 x3 x4 s
  | .vstseg x0 x1 x2 x3 x4 => Sys2Proof.Machine.execVstseg x0 x1 x2 x3 x4 s
  | .vldx x0 x1 x2 x3 => Sys2Proof.Machine.execVldx x0 x1 x2 x3 s
  | .vstx x0 x1 x2 x3 => Sys2Proof.Machine.execVstx x0 x1 x2 x3 s
  | .vldl x0 x1 x2 x3 x4 => Sys2Proof.Machine.execVldl x0 x1 x2 x3 x4 s
  | .vstl x0 x1 x2 x3 x4 => Sys2Proof.Machine.execVstl x0 x1 x2 x3 x4 s
  | .vrred x0 x1 x2 x3 x4 x5 x6 x7 => Sys2Proof.Machine.execVrred x0 x1 x2 x3 x4 x5 x6 x7 s
  | .vresume x0 => Sys2Proof.Machine.execVresume x0 s
  | .mattach x0 x1 => Sys2Proof.Machine.execMattach x0 x1 s
  | .mattachImm x0 x1 => Sys2Proof.Machine.execMattachImm x0 x1 s
  | .mdetach x0 => Sys2Proof.Machine.execMdetach x0 s
  | .mzero x0 => Sys2Proof.Machine.execMzero x0 s
  | .mpack x0 x1 x2 x3 x4 x5 x6 => Sys2Proof.Machine.execMpack x0 x1 x2 x3 x4 x5 x6 s
  | .mpackComplete x0 => Sys2Proof.Machine.execMpackComplete x0 s
  | .mmul x0 x1 x2 x3 x4 x5 x6 => Sys2Proof.Machine.execMmul x0 x1 x2 x3 x4 x5 x6 s
  | .matrixGrant x0 => Sys2Proof.Machine.execMatrixGrant x0 s
  | .bLoadComplete x0 x1 => Sys2Proof.Machine.execBLoadComplete x0 x1 s
  | .mmulPassComplete x0 => Sys2Proof.Machine.execMmulPassComplete x0 s
  | .mdrain x0 x1 => Sys2Proof.Machine.execMdrain x0 x1 s
  | .mdrainExt x0 x1 x2 x3 x4 x5 => Sys2Proof.Machine.execMdrainExt x0 x1 x2 x3 x4 x5 s
  | .mdrainComplete x0 => Sys2Proof.Machine.execMdrainComplete x0 s
  | .mdrainf x0 x1 x2 => Sys2Proof.Machine.execMdrainf x0 x1 x2 s
  | .crazanContribution x0 x1 x2 x3 => Sys2Proof.Machine.execCrazanContribution x0 x1 x2 x3 s
  | .collectiveRoundComplete x0 x1 => Sys2Proof.Machine.execCollectiveRoundComplete x0 x1 s
  | .collectiveAbort x0 x1 => Sys2Proof.Machine.execCollectiveAbort x0 x1 s
  | .coll x0 x1 x2 x3 x4 => Sys2Proof.Machine.execColl x0 x1 x2 x3 x4 s
  | .cpy x0 x1 x2 x3 x4 x5 x6 => Sys2Proof.Machine.execCpy x0 x1 x2 x3 x4 x5 x6 s
  | .cpyseg x0 x1 x2 x3 x4 x5 x6 x7 x8 x9 x10 => Sys2Proof.Machine.execCpyseg x0 x1 x2 x3 x4 x5 x6 x7 x8 x9 x10 s
  | .cpyx x0 x1 x2 x3 x4 x5 x6 x7 => Sys2Proof.Machine.execCpyx x0 x1 x2 x3 x4 x5 x6 x7 s
  | .copyComplete x0 => Sys2Proof.Machine.execCopyComplete x0 s
  | .copyFault x0 => Sys2Proof.Machine.execCopyFault x0 s
  | .cpyresume x0 x1 => Sys2Proof.Machine.execCpyresume x0 x1 s
  | .strm x0 x1 x2 x3 x4 => Sys2Proof.Machine.execStrm x0 x1 x2 x3 x4 s
  | .streamEntryPush x0 => Sys2Proof.Machine.execStreamEntryPush x0 s
  | .streamFaultTaken x0 => Sys2Proof.Machine.execStreamFaultTaken x0 s
  | .strmend x0 => Sys2Proof.Machine.execStrmend x0 s
  | .tdecl x0 x1 x2 x3 => Sys2Proof.Machine.execTdecl x0 x1 x2 x3 s
  | .trel x0 => Sys2Proof.Machine.execTrel x0 s
  | .tileRetire x0 => Sys2Proof.Machine.execTileRetire x0 s
  | .tstate x0 x1 => Sys2Proof.Machine.execTstate x0 x1 s
  | .ccwait x0 x1 x2 => Sys2Proof.Machine.execCcwait x0 x1 x2 s
  | .ccadd x0 x1 x2 => Sys2Proof.Machine.execCcadd x0 x1 x2 s
  | .fenceAcq x0 => Sys2Proof.Machine.execFenceAcq x0 s
  | .fenceRel x0 => Sys2Proof.Machine.execFenceRel x0 s
  | .fenceAcqrel x0 => Sys2Proof.Machine.execFenceAcqrel x0 s
  | .ustore x0 x1 x2 x3 x4 x5 => Sys2Proof.Machine.execUstore x0 x1 x2 x3 x4 x5 s
  | .vustore x0 x1 x2 x3 x4 x5 x6 x7 => Sys2Proof.Machine.execVustore x0 x1 x2 x3 x4 x5 x6 x7 s
  | .vlockacq x0 x1 x2 x3 x4 x5 x6 => Sys2Proof.Machine.execVlockacq x0 x1 x2 x3 x4 x5 x6 s
  | .vlockrel x0 x1 x2 x3 x4 x5 => Sys2Proof.Machine.execVlockrel x0 x1 x2 x3 x4 x5 s
  | .cflush x0 x1 x2 x3 => Sys2Proof.Machine.execCflush x0 x1 x2 x3 s
  | .cinv x0 x1 x2 => Sys2Proof.Machine.execCinv x0 x1 x2 s
  | .aStop => Sys2Proof.Machine.execAStop s
  | .aPf x0 x1 x2 x3 => Sys2Proof.Machine.execAPf x0 x1 x2 x3 s
  | .aPft x0 x1 => Sys2Proof.Machine.execAPft x0 x1 s
  | .aIns x0 x1 x2 => Sys2Proof.Machine.execAIns x0 x1 x2 s
  | .aCpri x0 x1 x2 => Sys2Proof.Machine.execACpri x0 x1 x2 s
  | .aMord x0 x1 => Sys2Proof.Machine.execAMord x0 x1 s
  | .aLdidx x0 x1 x2 => Sys2Proof.Machine.execALdidx x0 x1 x2 s
  | .adviceReadReturn => Sys2Proof.Machine.execAdviceReadReturn s
  | .aAwait x0 x1 => Sys2Proof.Machine.execAAwait x0 x1 s
  | .aJmp x0 => Sys2Proof.Machine.execAJmp x0 s
  | .aB x0 x1 x2 x3 => Sys2Proof.Machine.execAB x0 x1 x2 x3 s
  | .aLi x0 x1 x2 => Sys2Proof.Machine.execALi x0 x1 x2 s
  | .aAdd x0 x1 x2 x3 => Sys2Proof.Machine.execAAdd x0 x1 x2 x3 s
  | .aMul x0 x1 x2 => Sys2Proof.Machine.execAMul x0 x1 x2 s
  | .aAnd x0 x1 x2 => Sys2Proof.Machine.execAAnd x0 x1 x2 s
  | .aShr x0 x1 x2 => Sys2Proof.Machine.execAShr x0 x1 x2 s
  | .aRdstrip x0 => Sys2Proof.Machine.execARdstrip x0 s
  | .adviceLoadComplete => Sys2Proof.Machine.execAdviceLoadComplete s
  | .adviceRequestTimeout => Sys2Proof.Machine.execAdviceRequestTimeout s
  | .installVirtualDeviceRecord x0 x1 => Sys2Proof.Machine.execInstallVirtualDeviceRecord x0 x1 s
  | .launchCommand x0 x1 x2 x3 x4 => Sys2Proof.Machine.execLaunchCommand x0 x1 x2 x3 x4 s
  | .registerCollective x0 x1 => Sys2Proof.Machine.execRegisterCollective x0 x1 s
  | .unregisterCollective x0 x1 => Sys2Proof.Machine.execUnregisterCollective x0 x1 s
  | .installDumpKey x0 x1 x2 => Sys2Proof.Machine.execInstallDumpKey x0 x1 x2 s
  | .clockMode x0 x1 => Sys2Proof.Machine.execClockMode x0 x1 s
  | .selectionSlot => Sys2Proof.Machine.execSelectionSlot s
  | .launchPacket => Sys2Proof.Machine.execLaunchPacket s
  | .nextWave x0 => Sys2Proof.Machine.execNextWave x0 s
  | .stripBudgetExpiry => Sys2Proof.Machine.execStripBudgetExpiry s
  | .preemptionSaveComplete x0 => Sys2Proof.Machine.execPreemptionSaveComplete x0 s
  | .restoreComplete x0 => Sys2Proof.Machine.execRestoreComplete x0 s
  | .arbiterWindow x0 x1 => Sys2Proof.Machine.execArbiterWindow x0 x1 s
  | .arbiterGrant x0 x1 x2 x3 x4 => Sys2Proof.Machine.execArbiterGrant x0 x1 x2 x3 x4 s
  | .pelotonDelivery x0 x1 x2 => Sys2Proof.Machine.execPelotonDelivery x0 x1 x2 s
  | .pelotonRefusal x0 x1 => Sys2Proof.Machine.execPelotonRefusal x0 x1 s
  | .transientRequest x0 x1 x2 => Sys2Proof.Machine.execTransientRequest x0 x1 x2 s
  | .tokenResponse x0 x1 => Sys2Proof.Machine.execTokenResponse x0 x1 s
  | .persistentEscalation x0 x1 => Sys2Proof.Machine.execPersistentEscalation x0 x1 s
  | .persistentActivate x0 => Sys2Proof.Machine.execPersistentActivate x0 s
  | .persistentTimeout x0 => Sys2Proof.Machine.execPersistentTimeout x0 s
  | .uRequest => Sys2Proof.Machine.execURequest s
  | .uGrant => Sys2Proof.Machine.execUGrant s
  | .mergeCollect x0 x1 => Sys2Proof.Machine.execMergeCollect x0 x1 s
  | .collectAnswer x0 x1 => Sys2Proof.Machine.execCollectAnswer x0 x1 s
  | .mergeCollectTimeout x0 x1 => Sys2Proof.Machine.execMergeCollectTimeout x0 x1 s
  | .wLineTimeout x0 x1 => Sys2Proof.Machine.execWLineTimeout x0 x1 s
  | .hostAccess x0 x1 x2 => Sys2Proof.Machine.execHostAccess x0 x1 x2 s
  | .rootPortInboundRequest x0 x1 x2 => Sys2Proof.Machine.execRootPortInboundRequest x0 x1 x2 s
  | .cacheDataError x0 x1 x2 x3 => Sys2Proof.Machine.execCacheDataError x0 x1 x2 x3 s
  | .cacheTagParityError x0 x1 x2 => Sys2Proof.Machine.execCacheTagParityError x0 x1 x2 s
  | .registerParityError x0 => Sys2Proof.Machine.execRegisterParityError x0 s
  | .linkRetryExhausted x0 x1 => Sys2Proof.Machine.execLinkRetryExhausted x0 x1 s
  | .scrubTick x0 => Sys2Proof.Machine.execScrubTick x0 s
  | .timingErrorDetected x0 => Sys2Proof.Machine.execTimingErrorDetected x0 s
  | .droopAlarm x0 => Sys2Proof.Machine.execDroopAlarm x0 s
  | .droopPhaseEnd x0 => Sys2Proof.Machine.execDroopPhaseEnd x0 s
  | .powerControlTick x0 x1 => Sys2Proof.Machine.execPowerControlTick x0 x1 s
  | .vfStepComplete x0 => Sys2Proof.Machine.execVfStepComplete x0 s
  | .laneGateTimeout => Sys2Proof.Machine.execLaneGateTimeout s
  | .queueDeadlockWatchdog => Sys2Proof.Machine.execQueueDeadlockWatchdog s
  | .tileWatchdog => Sys2Proof.Machine.execTileWatchdog s
  | .killFinishAdd x0 => Sys2Proof.Machine.execKillFinishAdd x0 s
  | .supervisorTimeout => Sys2Proof.Machine.execSupervisorTimeout s
  | .stop => Sys2Proof.Machine.execStop s
  | .run => Sys2Proof.Machine.execRun s
  | .step => Sys2Proof.Machine.execStep s
  | .stepBlocked => Sys2Proof.Machine.execStepBlocked s
  | .reverseStep => Sys2Proof.Machine.execReverseStep s
  | .forwardStep => Sys2Proof.Machine.execForwardStep s
  | .registerWrite x0 x1 => Sys2Proof.Machine.execRegisterWrite x0 x1 s
  | .dumpRequest x0 x1 => Sys2Proof.Machine.execDumpRequest x0 x1 s
  | .partitionCoreMove x0 x1 x2 => Sys2Proof.Machine.execPartitionCoreMove x0 x1 x2 s
  | .reset => Sys2Proof.Machine.execReset s
  | .bootStage x0 => Sys2Proof.Machine.execBootStage x0 s
  | .getVersion => Sys2Proof.Machine.execGetVersion s
  | .getCapabilities => Sys2Proof.Machine.execGetCapabilities s
  | .negotiateAlgorithms x0 x1 => Sys2Proof.Machine.execNegotiateAlgorithms x0 x1 s
  | .getDigests => Sys2Proof.Machine.execGetDigests s
  | .getCertificate => Sys2Proof.Machine.execGetCertificate s
  | .challenge x0 => Sys2Proof.Machine.execChallenge x0 s
  | .getMeasurements x0 => Sys2Proof.Machine.execGetMeasurements x0 s
  | .pldmRequest => Sys2Proof.Machine.execPldmRequest s
  | .mctpControlMessage => Sys2Proof.Machine.execMctpControlMessage s
  | .reservedEncoding => Sys2Proof.Machine.execReservedEncoding s
  | .noAdviceInstruction => Sys2Proof.Machine.execNoAdviceInstruction s
  | .instructionFetchFault x0 x1 x2 => Sys2Proof.Machine.execInstructionFetchFault x0 x1 x2 s
  | .waitTimeout => Sys2Proof.Machine.execWaitTimeout s
  | .dumpComplete x0 => Sys2Proof.Machine.execDumpComplete x0 s
  | .retrainComplete x0 x1 x2 => Sys2Proof.Machine.execRetrainComplete x0 x1 x2 s

end Sys2Proof.Machine
end

