-- ==== Sys2Proof/Machine/Fetch.lean ====
section
/-! DEFINITION. What moves next (log 1): a turn of the agenda; else what is due; else the work of the active core's EP,
queues and engines; else its advice sequencer or its AP, which fetches (R155, R243); else the command processor; else
another core. -/

namespace Sys2Proof.Machine

open Sys2Proof

/-- What a step does: nothing but a state, an event or an advice instruction, or an instruction of the AP. -/
inductive Plan where
  | done (s : State)
  | run (i : Instr) (s : State)
  | ap (i : Instr) (s : State)
  deriving DecidableEq, Repr

/-! ## Fetching -/

/-- One word fetched at an address, with the loads that fetching it has made. -/
inductive FetchRes where
  | ok (s : State) (w : IWord)
  | stall
  | fault (s : State) (f : XFault) (leaf : Option Nat)
  deriving DecidableEq, Repr

/-- A word comes from the core's instruction cache where that holds its line (R243), else it is a load through the cluster cache
(R155). -/
def fetchWord (s : State) (va : Word) : FetchRes :=
  match s.check .fetch va with
  | .stall => .stall
  | .fault f => .fault s f none
  | .ok x =>
    let w := s.way x va false
    match s.core.icache.find? (fun l => l.line == lineOf x.pa) with
    | some l => .ok (walkLoads s s.cl s.core.vdid w) (BitVec.ofNat 32 (lineGet l.data (x.pa % 128) 4))
    | none =>
      let t := loadPrep s s.cl s.core.vdid x.pa 4 w
      if linePoisoned t t.cl x.pa 4 then .fault t ⟨kData, 0, []⟩ (some x.leafAddr)
      else .ok t (BitVec.ofNat 32 (lineRead t t.cl x.pa 4))

/-- What the fetch of an instruction ends in; a failure is at an address. -/
inductive FetchInstr where
  | words (s : State) (l : List IWord)
  | stall
  | fault (s : State) (f : XFault) (leaf : Option Nat) (va : Word)
  deriving DecidableEq, Repr

/-- n words from an address. -/
def fetchWords : Nat → Word → State → FetchInstr
  | 0, _, s => .words s []
  | n + 1, va, s =>
    match fetchWord s va with
    | .stall => .stall
    | .fault t f leaf => .fault t f leaf va
    | .ok t w =>
      match fetchWords n (va + 4) t with
      | .words u l => .words u (w :: l)
      | r => r

/-- The words of the instruction at the pc: the first gives the length (R133). -/
def fetchInstr (s : State) : FetchInstr :=
  match fetchWord s s.core.pc with
  | .stall => .stall
  | .fault t f leaf => .fault t f leaf s.core.pc
  | .ok t w =>
    match fetchWords (lengthOf w - 1) (s.core.pc + 4) t with
    | .words u l => .words u (w :: l)
    | r => r

/-- Lines of an instruction cache of 64 KiB (R16). -/
def icacheLines : Nat := 512

/-- A line filled into the active core's instruction cache, the oldest one leaving a full cache (R16, R243). -/
def fillIcache (s : State) (va : Word) : State :=
  match s.check .fetch va with
  | .ok x =>
    let l := lineOf x.pa
    let t := loadPrep s s.cl s.core.vdid (l * 128) 128 (s.way x va false)
    if linePoisoned t t.cl (l * 128) 128 then setPseen t x.leafAddr
    else t.updCore (fun c =>
      let old := c.icache.filter (fun k => k.line != l)
      { c with icache := old.drop (old.length - (icacheLines - 1)) ++ [⟨l, BitVec.ofNat 1024 (lineRead t t.cl (l * 128) 128)⟩] })
  | _ => s

/-! ## Another core -/

/-- The AP of a core can issue. -/
def apReady (c : Core) : Bool := c.run == .running && !c.held && c.dbg.st != .stopped

/-- A core of a stopped group serves a pre-emption at once (R309). -/
def mustYield (s : State) (c : Core) : Bool :=
  c.run == .running && !c.held && c.view != .s && (findGroup s.part c.cgid).any (fun g => g.preempt && g.stopped)

/-- A stopped copy of a held core whose fault kills: it is not kept waiting (R346). -/
def killPending (c : Core) : Option CopyOp :=
  if c.run == .running && c.held then
    c.copies.find? (fun x => match x.st with
      | .stopped k _ _ _ false => !copyRepair k
      | _ => false)
  else none

/-- A core that moves though its AP may not issue. -/
def mustMove (s : State) (c : Core) : Bool := mustYield s c || (killPending c).isSome

/-- An advice read is in flight on a core (R113). -/
def advPending (c : Core) : Bool := !c.adv.reqs.isEmpty || c.adv.ldidx.isSome

/-- A core has work in its queues and engines. -/
def hasWork (c : Core) : Bool :=
  if c.run == .off then advPending c
  else !c.viq.isEmpty || !c.vmq.isEmpty || !c.copies.isEmpty || !c.mats.isEmpty || c.streams.toList.any Option.isSome || advPending c

/-- The next core, in ascending index and around, that can move; time passes when the round is complete. -/
def passOn (s' : State) : State :=
  let s := { s' with issued := false }
  let l := ((s.rest.filter (fun c => apReady c || mustMove s c || hasWork c)).map (fun c => c.index.val)).mergeSort
  let t := tick (fun _ => 1) 1 s
  match l.find? (fun i => decide (s.core.index.val < i)) with
  | some i => activate s (Fin.ofNat 1024 i)
  | none =>
    match l with
    | i :: _ => activate t (Fin.ofNat 1024 i)
    | [] => t

/-! ## The AP at its boundary (R341) -/

/-- A copy whose fault has not been taken and can be (R346, R384). -/
def pendingCopy (c : Core) : Option CopyOp :=
  c.copies.find? (fun x => match x.st with
    | .stopped k _ _ _ false => !copyRepair k || c.view != .s
    | _ => false)

def pendingMat (c : Core) : Option MatOp := c.mats.find? (fun m => m.st.faulted)

/-- The active core serves a pre-emption at this boundary (R44, R309). -/
def budgetOver (s : State) : Bool :=
  match findGroup s.part s.core.cgid with
  | none => false
  | some g => g.preempt && s.core.view != .s && (g.stopped || decide (budgetOf s.part g * 1000 ≤ s.core.stripNs))

/-- VL or PMASK is not settled: a fault-first load, a vdrain or a partial instruction is not done (R41, R48, R202, R206). -/
def settling (c : Core) : Bool :=
  c.view != .s
    && (c.vmq.any (fun o => o.partly || ((vmDesc o.ins).map (·.ff)).getD false)
      || c.viq.any (fun o => match o.work with
        | .ins (.vdrain _ _ _ _ _ _ _ _ _) => true
        | _ => false))

/-- What the AP does at its pc; while a fault, or a reserved encoding, waits for earlier instructions, others move (R145, R347). -/
def apIssue (s : State) : Plan :=
  match fetchInstr s with
  | .stall => .done (passOn (s.waitAs .other))
  | .fault t f leaf va =>
    let s1 := match leaf with
      | some a => setPseen t a
      | none => walkPoisonLog (walkedTo t f) f
    if repairKind f.kind && entryWaits s1 then .done (passOn (s1.waitAs .behind))
    else .run (.instructionFetchFault f.kind f.level va) s1
  | .words t l =>
    match decodeWords l with
    | .ok (i, _) => .ap i t
    | .error _ => if earlierRun t then .done (passOn (t.waitAs .behind)) else .run .reservedEncoding t

/-- The AP's turn: a killing fault of a held core, a pre-emption of a stopped group; faults of engines, a pre-emption, a breakpoint,
and else the instruction at the pc. -/
def apTurn (s : State) : Plan :=
  if !apReady s.core then
    match killPending s.core with
    | some x => .done (takeCopyFault s x)
    | none => if mustYield s s.core then .run .stripBudgetExpiry s else .done s
  else
    match pendingCopy s.core, pendingMat s.core with
    | some x, _ =>
      .done (if entryWaits s && repairCopy x then passOn s else takeCopyFault s x)
    | none, some m => .done (takeMatFault s m)
    | none, none =>
      if budgetOver s then .run .stripBudgetExpiry s
      else
        match (if s.core.dbg.passBp then none else bpHit s.core) with
        | some i => .done (stopGroup s 2 i.val)
        | none => if settling s.core then .done (passOn (s.waitAs .full)) else apIssue s

/-- A core held by another core's fault finishes the AP instruction that it is in: it issues once more as if it were not held, and
is held again unless that entered the supervisor (R341, R346). -/
def lateTurn (s : State) : Plan :=
  if s.core.held && s.core.late != 0 && s.core.run == .running && s.core.entry.isNone then
    match apIssue (s.updCore (fun c => { c with late := 0 })) with
    | .ap i t => .run i t
    | p => p
  else .done s

/-- The advice sequencer of a core may issue next (R244). -/
def Core.advDue (c : Core) : Core :=
  { c with adv := { c.adv with due := !(c.adv.st == .off || c.adv.st == .stopped) || advPending c } }

/-- Whether the AP stands in a `wait` that has issued (R162). -/
def idling (w : Wait) : Bool :=
  match w with
  | .clocks _ => true
  | _ => false

/-- After an instruction of the AP: one that waits lets others move; one that is done is recorded. A step ends once an instruction
has issued: a `wait` with its first clk, any other one when it is done (R310). The advice sequencer may issue in each case. -/
def afterAp (i : Instr) (s t : State) : State :=
  if t.core.wait != .none then
    passOn ((if idling t.core.wait && !idling s.core.wait then stepDone t else t).updCore Core.advDue)
  else
    let u := recordAfter i s t
    { (if idling s.core.wait then u else stepDone u).updCore (fun c => { c.advDue with dbg := { c.dbg with passBp := false } }) with
      issued := true }

/-! ## What is due -/

/-- A round of a registered collective that every rank has contributed to (R222). -/
def fullRound (p : Part) : Option (Nat × Nat) :=
  (p.contribs.map (fun k => (k.id.toNat, k.round))).find? (fun r =>
    ((findColl p (BitVec.ofNat 64 r.1)).map (fun c =>
      (List.range c.nranks).all (fun k => p.contribs.any (fun x => x.id.toNat == r.1 && x.round == r.2 && x.rank == k)))).getD false)

/-- A cluster with a busy bank, and the lowest one. -/
def busyBank (s : State) : Option (Fin 128 × Fin 32) :=
  ((List.finRange 128).find? (fun c => (getCl s c).busy != 0)).bind (fun c =>
    ((List.finRange 32).find? (fun b => (getCl s c).busy.getLsbD b.val)).map (fun b => (c, b)))

/-- A W line that has been held for 10 µs (R102). -/
def oldW (s : State) : Option (Fin 128 × Nat) :=
  (List.finRange 128).findSome? (fun c => ((getCl s c).ws.find? (fun w => decide (10000 ≤ w.age))).map (fun w => (c, w.line)))

/-- Persistent requests (R95, R378): a recount that is due; an active entry that can complete; the next entry of an idle home. -/
def duePersist (s : State) : Option Instr :=
  let home (h : Fin 5) : Option Instr :=
    match s.coh.persist.find? (fun p => p.home == h && p.active) with
    | some p =>
      if tokTotal (findTok s.coh p.line) == 16 && !frameClosed s.coh (p.line * 128) then some (.persistentActivate h)
      else if 200000 ≤ p.ns then some (.persistentTimeout p.line)
      else none
    | none => (nextPersist s h).map (fun _ => .persistentActivate h)
  (List.finRange 5).findSome? home

/-- Requests of gateways for tokens (R92, R94, R95): a response that performs an access; an attempt that will; a failed attempt; and
the persistent request that follows three of them. -/
def dueTokens (s : State) : Option Instr :=
  s.coh.reqs.findSome? (fun r =>
    if persists s r.gw r.line || barredBy s r.gw r.line || frameClosed s.coh (r.line * 128) then none
    else if tokensDo s r.gw r.line r.write then some (.tokenResponse r.gw r.line)
    else if r.write && pageState s.coh (r.line * 128) == .readOnly then none
    else if tokensDo (answerTransient s r.gw r.line r.write) r.gw r.line r.write then some (.transientRequest r.gw r.line r.write)
    else if r.fails < 3 && r.edges < 2048 then some (.tokenResponse r.gw r.line)
    else if s.coh.persist.any (fun p => p.home.val == homeOf s r.line && p.gw == r.gw) then none
    else some (.persistentEscalation r.gw r.line))

/-- Collects and U traffic at once, unless they are to stay outstanding (R97, R98, R100); a collect that has timed out (R379). -/
def dueUpdates (s : State) : Option Instr :=
  let slot (r : URec) : Option Nat := (List.range 128).find? (fun k => r.presence.getLsbD k)
  let merging := s.coh.urecs.filter (fun r => r.merging.isSome)
  match merging.findSome? (fun r => if 100000 ≤ r.ns then (slot r).map (fun k => Instr.mergeCollectTimeout k r.line) else none) with
  | some i => some i
  | none =>
    if s.coh.slowU then none
    else
      let collect := merging.findSome? (fun r => match slot r, r.merging with
        | some k, _ => some (Instr.mergeCollect k r.line)
        | none, some (x :: _) => some (.collectAnswer x.1 r.line)
        | none, _ => none)
      let free (r : UReq) : Bool := !s.coh.persist.any (fun p => p.active && p.line == r.line)
      collect.or (if !s.coh.ugrants.isEmpty then some .uGrant
        else if (s.coh.ureqs.take 1).any free then some .uRequest else none)

/-- The matrix arbiter of a cluster (R219, R265): a load that ends, or a plane-clock that gives a lane or begins a load. -/
def dueMatrix (s : State) : Option Instr :=
  let cls := ((s.cores.filter (fun c => !c.mats.isEmpty)).map (fun c => coreCluster c.index)).eraseDups
  cls.findSome? (fun cl =>
    let x := getCl s cl
    let l := passRequests s cl.val
    if l.isEmpty then none
    else
      match (List.finRange 2).find? (fun j => (x.breg[j]).any (fun b => !b.loaded)) with
      | some j => some (.bLoadComplete cl.val (j == 1))
      | none =>
        let clk := x.planeAt < (s.part.dies[clusterDie cl]).edges
        match laneGrants s cl with
        | none => some (.matrixGrant cl.val)
        | some g => if (clk && g.2.2.1.any (fun g => g.2.2 != 0)) || (nextLoad s cl).isSome then some (.matrixGrant cl.val) else none)

/-- A standing request that an arbiter instance can grant (R264). -/
def dueGrant (p : Part) : Option Instr :=
  p.areqs.findSome? (fun a => (nextReq p a.kind a.inst).bind (fun x =>
    (reqClass p x.2).map (fun c => .arbiterGrant a.kind a.inst x.2.vdid.toNat c x.2.units)))

/-- A step of a voltage and frequency sequencer in progress, or the end of a droop phase (R302, R304). -/
def dueDie (p : Part) : Option Instr :=
  (List.finRange 4).findSome? (fun d =>
    if (p.dies[d]).step.isSome then some (.vfStepComplete d)
    else if (p.dies[d]).phase != .nominal && (p.dies[d]).left == 0 then some (.droopPhaseEnd d)
    else none)

/-- Events of the machinery around the cores that are due at once. -/
def dueAround (s : State) : Option Instr :=
  (duePersist s).or <| (dueTokens s).or <| (dueUpdates s).or <|
    (if s.coh.hand.status == 1 then some .handoverPass else none).or <|
    ((busyBank s).map (fun x => Instr.bankModeChangeDone x.1.val x.2)).or <|
    ((fullRound s.part).map (fun r => Instr.collectiveRoundComplete r.1 r.2)).or <|
    ((oldW s).map (fun x => Instr.wLineTimeout x.1.val x.2)).or <|
    (dueDie s.part).or <| ((windowDue s.part).map (fun w => Instr.arbiterWindow w.1 w.2)).or <|
    (dueGrant s.part).or (dueMatrix s)

/-- Whether a supervisor entry of the active core has run out (R348). -/
def entryOver (s : State) : Bool :=
  match s.core.entry, findGroup s.part s.core.cgid with
  | some e, some g => decide (budgetOf s.part g * 1000 ≤ e.ns)
  | _, _ => false

/-- Watchdogs and counts of the active core that have run out (R76, R112, R301, R310, R348, R389). -/
def dueHere (s : State) : Option Instr :=
  let c := s.core
  let tileOver := match c.wait with
    | .tile _ n => watchdogsRun c && decide (4194304 ≤ n)
    | _ => false
  let advOver := c.adv.ldidx.any (fun r => decide (65536 ≤ r.age)) || c.adv.reqs.any (fun r => decide (65536 ≤ r.age))
  if entryOver s then some .supervisorTimeout
  else if decide (65536 ≤ c.queueEdges) && deadlocked s then some .queueDeadlockWatchdog
  else if tileOver then some .tileWatchdog
  else if c.dbg.st == .stepping && stepWaits c.wait && decide (1000000 ≤ c.dbg.stepNs) then some .stepBlocked
  else if advOver then some .adviceRequestTimeout
  else if !c.gated && !s.part.lockedClock && decide (4096 ≤ c.idleEdges) && !c.viq.any (fun o => usesLanes o.work) then some .laneGateTimeout
  else none

def due (s : State) : Option Instr := (dueAround s).or (dueHere s)

/-! ## The active core's queues and engines -/

/-- A stream that can push (R230). -/
def readyStream (c : Core) : Option (Fin 4) :=
  if engFrozen c then none
  else
    (List.finRange 4).find? (fun q => match c.streams[q] with
      | some x => x.fault.isNone && decide (x.next < x.count) && decide ((c.vq[q]).length < 4)
      | none => false)

/-- The event that completes an operation of the matrix unit; a contribution that has no port to leave by waits (R290, R377). -/
def matEvent (p : Part) (c : Core) (i : Nat) : Option Instr :=
  (c.mats[i]?).bind (fun m => match m.ins with
    | .mpack _ _ _ _ _ _ _ => some (.mpackComplete i)
    | .mmul _ _ _ _ _ _ _ | .mzero _ => some (.mmulPassComplete i)
    | .mdrain _ _ | .mdrainExt _ _ _ _ _ _ => some (.mdrainComplete i)
    | .mdrainf _ slot _ => (c.colls[slot]).bind (fun x =>
        let leaves := ((findColl p x.id).map (collLocal p)).getD false || !(sendPorts p c.vdid).isEmpty
        if leaves && (ownContribution c x.id.toNat m.round x.rank).isSome then some (.crazanContribution x.id.toNat m.round x.rank 0) else none)
    | _ => none)

/-- A draining tile that nothing reads (R76). -/
def spentTile (c : Core) : Option TSlot :=
  (List.finRange 64).find? (fun t => (c.tiles[t]).st == .draining && !tileBusy c t)

/-- Work that the active core's EP, queues and engines can do now. -/
def coreWork (s : State) : Option Plan :=
  let c := s.core
  match (if queuesRun c && !s.slowEp then (epHead s).or (vmHead s) else none) with
  | some t => some (.done t)
  | none =>
    match readyStream c, nextCopy c, (nextMat c).bind (matEvent s.part c), spentTile c with
    | some q, _, _, _ => some (.run (.streamEntryPush q) s)
    | _, some i, _, _ => if engFrozen c then none else some (.run (.copyComplete i) s)
    | _, _, some i, _ => some (.run i s)
    | _, _, _, some t => some (.run (.tileRetire t) s)
    | none, none, none, none => none

/-! ## The command processor -/

/-- Whether a selection slot did anything. -/
def selected (s t : State) : Bool :=
  t.part.packets.length != s.part.packets.length || t.part.groups.map (·.preempt) != s.part.groups.map (·.preempt)

/-- The command of a window that may be served now (R288). -/
def windowWork (s : State) : Option Instr :=
  ((readyWindows s s.part.winQueue []).head?).bind (fun j => winCommand j s.part.windows[j])

/-- Work of the command processor: ends, waves, packets, saves, restores, a command that waits, selection, a dump. -/
def commandWork (s : State) : Option Plan :=
  let g (p : Group → Bool) : Option Group := s.part.groups.find? p
  let wave (x : Group) : Bool := wantsWave x && !s.part.packets.any (fun p => p.cgid == x.cgid)
  match g (fun x => x.killed && !recsWait s x), g wantsFinish, g wave, packetDie s.part, g (saveReady s), g (fun x => x.st == .restoring) with
  | some x, _, _, _, _, _ => some (.run (.killFinishAdd x.cgid) s)
  | none, some x, _, _, _, _ => some (.done (finishGroup s x))
  | none, none, some x, _, _, _ => some (.run (.nextWave x.cgid) s)
  | none, none, none, some _, _, _ => some (.run .launchPacket s)
  | none, none, none, none, some x, _ => some (.run (.preemptionSaveComplete x.cgid) s)
  | none, none, none, none, none, some x => some (.run (.restoreComplete x.cgid) s)
  | none, none, none, none, none, none =>
    match windowWork s with
    | some i => some (.run i s)
    | none =>
      let t := selectFrom 8 s []
      let idle := s.part.vds.all (fun d => d.queues.toList.all List.isEmpty && d.resume.toList.all List.isEmpty)
      if !idle && selected s t then some (.done t)
      else if s.part.dump.isSome then some (.run (.dumpComplete false) s)
      else none

/-! ## Turns of the agenda -/

/-- The advice sequencer's turn. -/
def adviceTurn (s : State) : Plan :=
  match advMove s with
  | .none => .done s
  | .state t => .done t
  | .run i => .run i s

/-- A cached translation or table pointer dropped (R283). -/
def tlbDrop (s : State) (w : TlbAt) (i : Nat) : State :=
  match w with
  | .core k => s.mapCores (fun c => if c.index == k then { c with tlb := c.tlb.eraseIdx i } else c)
  | .cluster cl => updCl s cl (fun x => { x with tlb := x.tlb.eraseIdx i })
  | .clusterPtr cl => updCl s cl (fun x => { x with ptrs := x.ptrs.eraseIdx i })
  | .walker d => setDie s d { s.part.dies[d] with ptrs := (s.part.dies[d]).ptrs.eraseIdx i }

/-- A translation of the active core, or its table pointers, cached where the core would find them (R283). -/
def tlbFill (s : State) (w : TlbAt) (va : Word) : State :=
  match s.translate .any va with
  | .ok x =>
    let u := walkLoads s s.cl s.core.vdid { Way.plain (groupWork s.part s.core.cgid) with walk := x.reads.map Prod.fst }
    match w with
    | .core k =>
      if k != s.core.index || (tlbHit s.core.tlb s.core.vdid va.toNat).isSome then s
      else u.updCore (fun c => { c with tlb := coreTlbPut c.tlb (leafEntry s x va) })
    | .cluster cl => if cl == s.cl then fillTlb u va else s
    | .clusterPtr cl =>
      if cl == s.cl then updCl u cl (fun c => (ptrEntries s x va).foldl (fun c e => if c.ptrs.contains e then c else clPtrPut c e) c) else s
    | .walker d =>
      if d == s.die then
        setDie u d { u.part.dies[d] with ptrs := ((u.part.dies[d]).ptrs ++ (ptrEntries s x va).filter (fun e => 2 ≤ e.level)).eraseDups }
      else s
  | _ => s

/-- One turn. -/
def turn (s : State) : Turn → Plan
  | .event i => .run i s
  | .ap => apTurn s
  | .apLate => lateTurn s
  | .advice => adviceTurn s
  | .ep => .done (if queuesRun s.core then (epHead s).getD s else s)
  | .vmq => .done (if queuesRun s.core then (vmHead s).getD s else s)
  | .tick e0 e1 e2 e3 ns => .done (tick (fun d => #v[e0, e1, e2, e3][d]) ns s)
  | .switch i => .done (if (s.getCore i).run == .off && !advPending (s.getCore i) then s else activate s i)
  | .sectors i n => .done (match s.core.copies[i]? with
    | some x => runCopy s x n
    | none => s)
  | .tlbDrop w i => .done (tlbDrop s w i)
  | .tlbFill w va => .done (tlbFill s w va)
  | .packet d => .done (takePacket d s)
  | .overtake grant i => .done (overtake s grant i)
  | .icFill va => .done (fillIcache s va)
  | .icDrop i => .done (s.updCore (fun c => { c with icache := c.icache.eraseIdx i }))
  | .slowEp on => .done { s with slowEp := on }
  | .outsideRead port pa n => .done (outsideRead port pa n s)
  | .slowU on => .done { s with coh := { s.coh with slowU := on } }
  | .windowWrite host party j off v pid tid => .done (windowPut s host party j off v pid tid)
  | .windowRead party j off => .done (windowGet s party j off)
  | .table t => .done (tablePut s t)
  | .clockAim d f => .done (clockAim s d f)
  | .extendMr k image => .done (extendMr s k image)
  | .sectorBad l k => .done (sectorBad l k s)
  | .adviceParity => .done (adviceParity s)
  | .logRead i => .done (logRead i s)

/-! ## A part that is held in reset (R293, R377, R395) -/

/-- What the management sideband carries and what ends the holding; it works while the part is held (R298). -/
def managementEvent (i : Instr) : Bool :=
  match i with
  | .reset | .getVersion | .getCapabilities | .negotiateAlgorithms _ _ | .getDigests | .getCertificate | .challenge _
  | .getMeasurements _ | .pldmRequest | .mctpControlMessage => true
  | _ => false

/-- What the system die does on its own while the compute dies are held: power control, the end of killed groups, its windows. -/
def systemEvent (i : Instr) : Bool :=
  match i with
  | .powerControlTick _ _ | .killFinishAdd _ | .handoverPass | .installVirtualDeviceRecord _ _ | .launchCommand _ _ _ _ _
  | .registerCollective _ _ | .unregisterCollective _ _ | .installDumpKey _ _ _ | .clockMode _ _ | .hostAccess _ _ _
  | .rootPortInboundRequest _ _ _ => true
  | _ => managementEvent i

/-- A turn that acts while boot holds the part, or, with `system`, while a fatal error holds the compute dies. -/
def heldTurn (system : Bool) (t : Turn) : Bool :=
  match t with
  | .event i => if system then systemEvent i else managementEvent i
  | .tick _ _ _ _ _ | .windowWrite _ _ _ _ _ _ _ | .windowRead _ _ _ | .table _ | .logRead _ | .sectorBad _ _ => system
  | _ => false

/-- The part is held in reset. -/
def partHeld (s : State) : Bool := s.part.bootHeld.isSome || s.part.fatalHeld

/-- A turn while the part is held: it acts, or it does nothing. Held compute dies have no clock edges. -/
def turnHeld (s : State) (t : Turn) : Plan :=
  if !heldTurn s.part.bootHeld.isNone t then .done s
  else
    match t with
    | .tick _ _ _ _ ns => .done (tick (fun _ => 0) ns s)
    | _ => turn s t

/-- The own move of a part that is held: none where boot holds it; else the system die goes on: killed groups end, and time passes
(R377, R395). -/
def heldMove (s : State) : Plan :=
  if s.part.bootHeld.isSome then .done s
  else if s.coh.hand.status == 1 then .run .handoverPass s
  else
    match s.part.groups.find? (fun g => g.killed && !recsWait s g) with
    | some g => .run (.killFinishAdd g.cgid) s
    | none => .done (tick (fun _ => 0) 1 s)

/-! ## The order of moves -/

/-- The machine's own move, when the agenda asks for nothing. -/
def ownMove (s : State) : Plan :=
  if partHeld s then heldMove s
  else
    match due s with
    | some i => .run i s
    | none =>
      match coreWork s with
      | some p => p
      | none =>
        if s.core.adv.due then adviceTurn (s.updAdv (fun a => { a with due := false }))
        else if !s.issued && ((apReady s.core && s.core.wait == .none) || mustMove s s.core) then apTurn s
        else
          match commandWork s with
          | some p => p
          | none => if apReady s.core && !s.issued then apTurn s else .done (passOn (s.updCore Core.advDue))

/-- What the next step does: a window that has ended is closed first (R261, R262). -/
def plan (s : State) : Plan :=
  match windowDue s.part, s.agenda with
  | some w, _ => .run (.arbiterWindow w.1 w.2) s
  | none, t :: l => if partHeld s then turnHeld { s with agenda := l } t else turn { s with agenda := l } t
  | none, [] => ownMove s

end Sys2Proof.Machine
end

