-- ==== Sys2Proof/Machine/Step.lean ====
section
/-! DEFINITION. One step of the part: what `plan` picks, performed by `exec`. -/

namespace Sys2Proof.Machine

open Sys2Proof

/-- One step. -/
def step (s : State) : Host.Outcome State Fault Refusal :=
  match plan s with
  | .done t => .next t
  | .run i t => exec i t
  | .ap i t =>
    match exec i t with
    | .next u => .next (afterAp i t u)
    | .fault f => .fault f
    | .refused r => .refused r

/-! ## An instruction placed where it is fetched (log 24) -/

/-- A virtual device with one page, for a core that has none: nothing of it but its translation is needed. -/
def fetchVd (v : BitVec 6) : Vd :=
  { vdid := v, part := 0, budget := 100, root := 0, save := 0, faultq := 0x1000, faultn := 64, stampq := 0x2000, stampn := 64
    dkey := 0, fports := 0, xdef := 0, sems := 0, cds := 0, banks := 0, ports := BitVec.allOnes 128, excl := 0, shared := 0
    rate := { guaranteed := false, ins := 2, ways := 0, acc := 0, rate := Vector.replicate 7 0, depth := Vector.replicate 7 0
              status := 0, slots := Vector.replicate 4 (15, 0) }
    fq := ⟨0, 0, 0⟩, sq := ⟨0, 0, 0⟩, count := 0, queues := Vector.replicate 8 [], resume := Vector.replicate 8 [] }

/-- The translation of the page at 0, which may be read, written and fetched, in the active core's TLB. -/
def fetchPage (v : BitVec 6) : TlbEntry := ⟨v, 0, 0, 0x1F, 0⟩

/-- The core runs a program at address 0: started, in the U view, with nothing that keeps its AP from issuing. -/
def fetchCore (c : Core) : Core :=
  { c with run := .running, held := false, view := .u, wait := .none, pc := 0, entry := none, tlb := fetchPage c.vdid :: c.tlb
           icache := c.icache.filter (fun l => l.line != 0), dbg := { c.dbg with st := .running, passBp := true } }

/-- A semantic instruction's bytes at address 0 of the active core, and its AP's turn. -/
def placeWords (s : State) (bytes : List Byte) : State :=
  let part := match findVd s.part s.core.vdid with
    | some _ => s.part
    | none => { s.part with vds := s.part.vds ++ [fetchVd s.core.vdid] }
  let s1 := { s with part := { part with bootHeld := none, fatalHeld := false } }
  let s2 := updCl s1 s1.cl (fun c => { c with ws := c.ws.filter (fun w => w.line != 0) })
  { s2 with core := fetchCore s2.core, mem := s2.mem.writeList (memKey s2.part 0) bytes
            poison := s2.poison.filter (fun q => q != memKey s2.part 0 / 32), agenda := [.ap] }

/-- An advice instruction at the sequencer's pc of the active core, and its turn. -/
def placeAdvice (s : State) (bytes : List Byte) : State :=
  let c := s.core
  { s with core := { c with run := .running, dbg := { c.dbg with st := .running }
                            adv := { c.adv with st := .running, pc := 0, buffer := bytes, ldidx := none, reqs := [], overflow := false } }
           part := { s.part with bootHeld := none, fatalHeld := false }
           agenda := [.advice] }

/-- An instruction placed so that the next step runs it: in memory at the pc, or in the advice buffer (log 24). -/
def State.withFetchWord (s : State) (nbits w : Nat) : State :=
  let bytes := tableBytes nbits w
  match decode bytes with
  | .ok _ => placeWords s bytes
  | .error _ => placeAdvice s bytes

end Sys2Proof.Machine
end

