-- ==== Sys2Proof/Safety.lean ====
section
/-! DEFINITION. The terms that statements about the machine are made of: completion, frames, and which states are quiet. -/

namespace Sys2Proof.Machine

open Sys2Proof

/-- The meaning of an instruction answers a next state, which has a property. -/
def Completes (i : Instr) (s : State) (P : State → Prop) : Prop := ∃ t, exec i s = .next t ∧ P t

/-- Memory in its canonical form, generic and local. -/
def Canonical (s : State) : Prop := s.mem.wf ∧ s.loc.wf

/-! ## Frames -/

/-- One scalar register takes a value (s0 discards it and reads zero), the pc goes n bytes on, no wait is left; no other
scalar register, and nothing else in the whole state, changes. -/
def Wrote (s t : State) (d : SReg) (v : Word) (n : Nat) : Prop :=
  t.sreg d = (if d = 0 then 0 else v) ∧ (∀ r, r ≠ d → t.sreg r = s.sreg r) ∧
  t = { s with core := { s.core with s := t.core.s, pc := s.core.pc + BitVec.ofNat 64 n, wait := .none } }

/-- The pc goes to an address, no wait is left; nothing else in the whole state changes. -/
def Went (s t : State) (pc : Word) : Prop := t = { s with core := { s.core with pc := pc, wait := .none } }

/-- An invalidation changes cached translations of the active core's virtual device alone, the pc moving on: those of every other
one stay in each core, cluster and walker (R166). -/
def Unmapped (s t : State) : Prop :=
  let v := s.core.vdid
  t.cores.map (fun c => c.tlb.filter (fun x => x.vdid != v)) = s.cores.map (fun c => c.tlb.filter (fun x => x.vdid != v)) ∧
  (∀ c, (getCl t c).tlb.filter (fun x => x.vdid != v) = (getCl s c).tlb.filter (fun x => x.vdid != v) ∧
    (getCl t c).ptrs.filter (fun x => x.vdid != v) = (getCl s c).ptrs.filter (fun x => x.vdid != v)) ∧
  (∀ d : Fin 4, (t.part.dies[d]).ptrs.filter (fun x => x.vdid != v) = (s.part.dies[d]).ptrs.filter (fun x => x.vdid != v)) ∧
  t.rest.map (fun c => { c with tlb := [] }) = s.rest.map (fun c => { c with tlb := [] }) ∧
  t.clusters.map (fun c => { c with tlb := [], ptrs := [] }) = s.clusters.map (fun c => { c with tlb := [], ptrs := [] }) ∧
  t.part.dies.map (fun d => { d with ptrs := [] }) = s.part.dies.map (fun d => { d with ptrs := [] }) ∧
  Went { s with
    core := { s.core with tlb := t.core.tlb }, rest := t.rest, clusters := t.clusters
    part := { s.part with dies := t.part.dies } } t (s.core.pc + 4)

/-- A core without what a write by another core, or a watch range, may change in it: its wait, one that its supervisor returns to
included, and its debug block. -/
def Core.calm (c : Core) : Core :=
  { c with wait := .none, entry := c.entry.map (fun e => { e with wait := .none }), dbg := Debug.reset, waddr := 0 }

/-- Every core is as `c` says for the active one and as before for the others, waits and debug blocks apart. -/
def CoresKept (s t : State) (c : Core) : Prop :=
  t.core.calm = c.calm ∧ t.rest.map Core.calm = s.rest.map Core.calm

/-- Every byte of memory, generic and local, and every poison mark is as before. -/
def MemoryKept (s t : State) : Prop :=
  (∀ k, t.mem.read k = s.mem.read k) ∧ (∀ k, t.loc.read k = s.loc.read k) ∧
  t.poison = s.poison ∧ t.locPoison = s.locPoison

/-- The bytes of a memory after n bytes of a value, least significant first, are put at a place; every other byte is as
before. -/
def Stored (m m' : Memory) (key n : Nat) (v : Nat) : Prop :=
  ∀ k, m'.read k = if key ≤ k ∧ k < key + n then BitVec.ofNat 8 (v / 256 ^ (k - key)) else m.read k

/-- What an access is charged changes the arbiters' books alone: buckets, pools and the requests that stand there (R267). -/
def Charged (p q : Part) : Prop := q = { p with buckets := q.buckets, pools := q.pools, areqs := q.areqs }

/-- Semaphores, data registers, FIFO banks and bank modes of every cluster are as before. -/
def ClusterRegsKept (s t : State) : Prop :=
  ∀ c, (getCl t c).sem = (getCl s c).sem ∧ (getCl t c).cd = (getCl s c).cd ∧ (getCl t c).fifo = (getCl s c).fifo ∧
    (getCl t c).cbmode = (getCl s c).cbmode

/-- A scalar register takes a value in a core, which goes on behind n bytes. -/
def Core.after (c : Core) (d : SReg) (v : Word) (n : Nat) : Core :=
  { c.setSreg d v with pc := c.pc + BitVec.ofNat 64 n }

/-- No line is held in U or W anywhere, and no update waits for a grant (a byte's value then stands in memory alone). -/
def Quiet (s : State) : Prop :=
  s.coh.urecs = [] ∧ ∀ c, (getCl s c).us = [] ∧ (getCl s c).ws = [] ∧ (getCl s c).uwaits = []

/-- No line of bonded DRAM is dirty: its two addresses then read alike (R69). -/
def NoAlias (s : State) : Prop := ∀ line, aliasDirty s line = false

/-! ## Instructions of one shape -/

/-- A class-0 instruction with a source b, in every form of it. -/
def Binary (i : SReg → SReg → SrcB → Instr) (f : Word → Word → Word) : Prop :=
  ∀ (d a : SReg) (y : SrcB) (s : State), Completes (i d a y) s (fun t => Wrote s t d (f (s.sreg a) (srcBVal s y)) (srcBLen y))

/-- A class-0 instruction with one source, in its one-word and its extended form. -/
def Unary (i : Bool → SReg → SReg → Instr) (f : Word → Word) : Prop :=
  ∀ (e : Bool) (d a : SReg) (s : State), Completes (i e d a) s (fun t => Wrote s t d (f (s.sreg a)) (if e then 12 else 4))

/-- The new value of an atomic's word (R150's table). -/
def amoWord {w : Nat} (op : AmoOp) (m y : BitVec w) : BitVec w :=
  match op with
  | .add => m + y
  | .min => if m.toInt ≤ y.toInt then m else y
  | .max => if y.toInt ≤ m.toInt then m else y
  | .minn => if m ≤ y then m else y
  | .maxn => if y ≤ m then m else y
  | .and => m &&& y
  | .or => m ||| y
  | .xor => m ^^^ y
  | .swap => y

/-- What an atomic answers in s[d]: the old word sign-extended for min and max, else zero-extended (R150). -/
def amoOld {w : Nat} (op : AmoOp) (m : BitVec w) : Word :=
  match op with
  | .min | .max => m.signExtend 64
  | _ => m.zeroExtend 64

/-- Bytes of an atomic. -/
def amoBytes (w64 : Bool) : Nat := if w64 then 8 else 4

/-- The word of n bytes that stands at a place, and the low n bytes of a register. -/
def wordAt (m : Memory) (key n : Nat) : BitVec (8 * n) := BitVec.ofNat (8 * n) (m.readN key n)

def lowBytes (v : Word) (n : Nat) : BitVec (8 * n) := BitVec.ofNat (8 * n) v.toNat

/-! ## Entries and the EP -/

/-- What entering the supervisor does to the active core (R347): the bank exchanged for s56 to s63, s56 the record's
address, s57 the kind, the view S, the pc at the entry address. -/
def Entered (c c' : Core) (kind : BitVec 8) (ret : Word) : Prop :=
  c'.view = .s ∧ c'.pc = 0x0000FFFFFFFF0000 ∧ c'.s[57] = kind.zeroExtend 64 ∧
  (∀ r : Fin 64, r.val < 56 → c'.s[r] = c.s[r]) ∧ (∀ j : Fin 8, 2 ≤ j.val → c'.s[j.val + 56] = c.sBank[j]) ∧
  (∀ j : Fin 8, c'.sBank[j] = c.s[j.val + 56]) ∧ (∃ e, c'.entry = some e ∧ e.ret = ret ∧ e.kind = kind ∧ e.bank = c.sBank) ∧
  c' = { c with
    view := c'.view, pc := c'.pc, s := c'.s, sBank := c'.sBank, entry := c'.entry, wait := .none, held := false, late := 0 }

/-- A core that an instruction of the EP can complete on at once: outside the S view, nothing queued before it. -/
def EpIdle (s : State) : Prop := s.core.view ≠ .s ∧ s.core.viq = [] ∧ s.slowEp = false

/-- The EP takes an instruction at once and nothing keeps it from completing: its registers are readable, VL fits its
widths, its queues have entries without poison; `c` is the core after the pops and `l` the sources as read. -/
def EpReady (s : State) (srcs : List VB) (regs : List VReg) (ws : List Nat) (masked : Bool) (c : Core) (l : List SVal) : Prop :=
  EpIdle s ∧ (∀ r ∈ srcRegs srcs ++ regs, s.core.isPoisoned r = false) ∧
  (∀ w ∈ ws, s.core.vl ≤ 32768 / w) ∧ (masked = true → s.core.vl ≤ 1024) ∧
  popAll s.core srcs = some (c, l) ∧ popsPoison l = false

/-- After an instruction of the EP of n bytes that completes at once: the core is `c` but for the pc, the program order
count and the lanes' idle count; nothing outside the core changes. -/
def EpDone (s t : State) (c : Core) (n : Nat) : Prop :=
  t = { s with core := { c with
    pc := s.core.pc + BitVec.ofNat 64 n, wait := .none, seq := s.core.seq + 1, idleEdges := 0, gated := false } }

/-- The vector register d of a core is written at width w: active elements below VL take g, the others stay, or are zero
where the register was poisoned; the register is readable afterwards, and no other register changes. Nothing at VL 0. -/
def VecWritten (s : State) (c' : Core) (msk : Fin 8) (d : VReg) (w : Nat) (g : Nat → Option Nat) : Prop :=
  (s.core.vl = 0 → c'.v = s.core.v ∧ c'.poisonV = s.core.poisonV) ∧
  (s.core.vl ≠ 0 → c'.isPoisoned d = false ∧ ∀ e, e < 32768 / w → elemGet w e c'.v[d] =
    if e < s.core.vl ∧ activeAt s.core msk e = true then
      (match g e with
       | some x => x % 2 ^ w
       | none => elemGet w e (s.core.vdest d))
    else elemGet w e (s.core.vdest d)) ∧
  (∀ r, r ≠ d → c'.v[r] = s.core.v[r] ∧ c'.isPoisoned r = s.core.isPoisoned r)

/-- A class-3 instruction that writes vector register d, and nothing else but the queues it pops. -/
def VecEffect (i : Instr) (s : State) (f : VF) (d : VReg) (n : Nat) (c : Core) (g : Nat → Option Nat) : Prop :=
  Completes i s (fun t => VecWritten s t.core f.msk d f.et.regW g ∧
    EpDone s t { c with v := t.core.v, poisonV := t.core.poisonV } n)

/-- A two-source class-3 instruction over element types `ok`, in every form of its sources. -/
def VBinary (i : VF → VReg → VSrc → VB → Instr) (ok : ElemTy → Bool) (g : VF → Capture → Nat → Nat → Nat → Nat) : Prop :=
  ∀ (f : VF) (d : VReg) (a : VSrc) (b : VB) (s : State) (c : Core) (l : List SVal), ok f.et = true →
    EpReady s [.src a, b] [] [f.et.regW] (f.msk != 0) c l →
    VecEffect (i f d a b) s f d (vfLen f b.isLit) c
      (fun e => some (g f (capture s 0 0 (vfLen f b.isLit)) e (sElem f.et (getS l 0) e) (sElem f.et (getS l 1) e)))

/-- A one-source class-3 instruction. -/
def VUnary (i : VF → VReg → VSrc → Instr) (ok : ElemTy → Bool) (g : VF → Capture → Nat → Nat → Nat) : Prop :=
  ∀ (f : VF) (d : VReg) (a : VSrc) (s : State) (c : Core) (l : List SVal), ok f.et = true →
    EpReady s [.src a] [] [f.et.regW] (f.msk != 0) c l →
    VecEffect (i f d a) s f d (vfLen f false) c (fun e => some (g f (capture s 0 0 (vfLen f false)) e (sElem f.et (getS l 0) e)))

/-! ## Integers of an element type (R50, R52) -/

/-- The value of w bits, read as the type reads them. -/
def elemInt (t : ElemTy) (x : Nat) : Int :=
  if t.signed then (BitVec.ofNat t.regW x).toInt else ((BitVec.ofNat t.regW x).toNat : Int)

/-- The bits of an exact result: brought to the nearest end of the range with .sat, and modulo 2^w. -/
def elemFit (t : ElemTy) (sat : Bool) (x : Int) : Nat :=
  let lo : Int := if t.signed then -(2 ^ (t.regW - 1)) else 0
  let hi : Int := if t.signed then 2 ^ (t.regW - 1) - 1 else 2 ^ t.regW - 1
  (BitVec.ofInt t.regW (if sat then max lo (min hi x) else x)).toNat

/-- The quotient of R52: truncated towards zero; by zero all ones, or the end of the range on the dividend's side. -/
def elemQuot (t : ElemTy) (x y : Int) : Int :=
  if y = 0 then (if t.signed then (if x < 0 then -(2 ^ (t.regW - 1)) else 2 ^ (t.regW - 1) - 1) else 2 ^ t.regW - 1)
  else Int.tdiv x y

/-! ## Other results of the EP -/

/-- An exact value rounded once to the element type, with the mode, the random bits and .sat of an instruction (R171). -/
def rounded (f : VF) (c : Capture) (e : Nat) (sat : Bool) (x : Num) : Nat :=
  encElem f.et (effRm f.rm c) sat (elemRnd c e) x

/-- A scaled value brought to the element type: where it overflows, an infinity under every rm without .sat (R63, R181). -/
def scaled (f : VF) (c : Capture) (e : Nat) (x : Num) : Nat :=
  encScaled f.et (effRm f.rm c) f.sat (elemRnd c e) x

/-- Mask register d of a core takes g in its active bits below VL; its other bits, and every other mask, stay. -/
def MaskWritten (s : State) (c' : Core) (msk : Fin 8) (d : MReg) (g : Nat → Bool) : Prop :=
  (∀ e, e < 1024 → (c'.m[d]).getLsbD e = if e < s.core.vl ∧ activeAt s.core msk e = true then g e else (s.core.m[d]).getLsbD e) ∧
  (∀ r, r ≠ d → c'.m[r] = s.core.m[r])

/-- A class-3 instruction that writes mask register d, and nothing else but the queues it pops. -/
def MaskEffect (i : Instr) (s : State) (f : VF) (d : MReg) (n : Nat) (c : Core) (g : Nat → Bool) : Prop :=
  Completes i s (fun t => MaskWritten s t.core f.msk d g ∧ EpDone s t { c with m := t.core.m } n)

/-- A class-3 instruction that writes k register d at VL above 0. -/
def KEffect (i : Instr) (s : State) (f : VF) (d : KReg) (c : Core) (v : Word) : Prop :=
  Completes i s (fun t => EpDone s t (if s.core.vl = 0 then c else c.setK d v) (vfLen f false))

/-- The active elements below VL. -/
def activeList (s : State) (msk : Fin 8) : List Nat := (List.range s.core.vl).filter (fun e => activeAt s.core msk e)

/-- The number of one bits of a mask below an element. -/
def onesUnder (m : Mask) (e : Nat) : Nat := ((List.range e).filter (fun i => m.getLsbD i)).length

/-- The relations of R178's table on an order. -/
def relHolds (rel : Nat) (lt eq : Bool) : Bool :=
  match rel with
  | 0 => eq
  | 1 => !eq
  | 2 => lt
  | 3 => lt || eq
  | 4 => !(lt || eq)
  | 5 => !lt
  | _ => false

/-- Element i of a source where i lies below VL, else zero (R185). -/
def elemOrZero (s : State) (t : ElemTy) (x : SVal) (i : Nat) : Nat := if i < s.core.vl then sElem t x i else 0

/-! ## The vector memory queue -/

def Piece.isFifo (p : Piece) : Bool :=
  match p.dst with
  | .fifo _ => true
  | _ => false

/-- Where the bytes of an access stand: local space or generic memory, first place, bytes. -/
def Piece.span (s : State) (p : Piece) : Bool × Nat × Nat :=
  match p.dst with
  | .gen x => (false, memKey s.part x.pa, p.raw.n)
  | .key k => (true, k, p.raw.n)
  | .fifo _ => (true, 0, 0)

/-- The memory that a span names. -/
def spanMem (s : State) (l : Bool) : Memory := if l then s.loc else s.mem

/-- The bytes of an access, as one number. -/
def Piece.word (s : State) (p : Piece) : Nat := (spanMem s (p.span s).1).readN (p.span s).2.1 p.raw.n

/-- What an access gives to its element. -/
def Piece.part (s : State) (p : Piece) : Nat := p.word s / 2 ^ p.raw.lo % 2 ^ p.raw.bits * 2 ^ p.raw.shift

/-- What the accesses of field f of an element read. -/
def fieldOf (s : State) (ps : List Piece) (f : Nat) : Nat := ((ps.filter (fun p => p.raw.fld == f)).map (Piece.part s)).sum

/-- A queued instruction is taken at once, and nothing keeps it from completing: its registers are readable, VL fits, and
every access of an active element passes its checks (`ps e`); no line is in U or W. -/
def VmReady (s : State) (i : Instr) (d : VmDesc) (c : Capture) (ps : Nat → List Piece) : Prop :=
  EpIdle s ∧ s.core.vmq = [] ∧ Quiet s ∧ vmDesc i = some d ∧ (∀ r ∈ d.reads, s.core.isPoisoned r = false) ∧
  vmLimits s d c = true ∧ ∀ e ∈ activeList s d.msk,
    checkElem s d (d.raws c (d.grab s.core).idx e) = .ok (ps e) ∧ ∀ p ∈ ps e, p.isFifo = false

/-- The core after an instruction of the queue of n bytes, but for what the instruction writes. -/
def Core.afterVm (c : Core) (n : Nat) : Core := { c with pc := c.pc + BitVec.ofNat 64 n, seq := c.seq + 1 }

/-- The registers of a load hold what its accesses read: active elements of field k in register k of the destination; other
elements stay, or are zero where the register was poisoned. Nothing at VL 0. -/
def LoadWritten (s : State) (c' : Core) (d : VmDesc) (rd : VReg) (ps : Nat → List Piece) : Prop :=
  (s.core.vl = 0 → c'.v = s.core.v ∧ c'.poisonV = s.core.poisonV) ∧
  (s.core.vl ≠ 0 → ∀ (k : Nat) (r : VReg), (loadRegs d rd)[k]? = some r → c'.isPoisoned r = false ∧
    ∀ e, e < 32768 / d.et.regW → elemGet d.et.regW e c'.v[r] =
      if e ∈ activeList s d.msk then putBits d.et (fieldOf s (ps e) k) else elemGet d.et.regW e (s.core.vdest r)) ∧
  (∀ r, r ∉ loadRegs d rd → c'.v[r] = s.core.v[r] ∧ c'.isPoisoned r = s.core.isPoisoned r)

/-- No access goes to a line that stands dirty under its other address, and no two go to one line under both of its addresses
(R69 leaves open what such a read returns). -/
def Unaliased (s : State) (d : VmDesc) (ps : Nat → List Piece) : Prop :=
  ∀ e ∈ activeList s d.msk, ∀ p ∈ ps e, ∀ x, p.dst = .gen x → aliasDirty s (lineOf x.pa) = false ∧
    ∀ e' ∈ activeList s d.msk, ∀ q ∈ ps e', ∀ y, q.dst = .gen y →
      memKey s.part (lineOf x.pa * 128) = memKey s.part (lineOf y.pa * 128) → lineOf x.pa = lineOf y.pa

/-- What a load of n bytes does when it is taken at once: its registers, or one entry of its queue whose other elements are
zero; no byte of memory changes. -/
def VLoads (i : Instr) (a b : State → Word) (n : Nat) : Prop :=
  ∀ (s : State) (d : VmDesc) (ps : Nat → List Piece), VmReady s i d (capture s (a s) (b s) n) ps → Unaliased s d ps →
    (∀ rd, d.kind = .load (.v rd) → Completes i s (fun t => LoadWritten s t.core d rd ps ∧ MemoryKept s t ∧
      CoresKept s t { s.core.afterVm n with v := t.core.v, poisonV := t.core.poisonV })) ∧
    (∀ j, d.kind = .load (.q j) → (s.core.vq[j]).length < 4 → Completes i s (fun t => ∃ x,
      (∀ e, e < 32768 / d.et.regW → elemGet d.et.regW e x = if e ∈ activeList s d.msk then putBits d.et (fieldOf s (ps e) 0) else 0) ∧
      MemoryKept s t ∧ CoresKept s t { s.core.afterVm n with
        queueEdges := 0
        vq := s.core.vq.set j (s.core.vq[j] ++ [⟨x, s.core.vl, 0, s.core.seq⟩]) }))

/-- Whether a byte of local space or of generic memory is one that an active element accesses. -/
def Touched (s : State) (d : VmDesc) (ps : Nat → List Piece) (l : Bool) (k : Nat) : Prop :=
  ∃ e ∈ activeList s d.msk, ∃ p ∈ ps e, (p.span s).1 = l ∧ (p.span s).2.1 ≤ k ∧ k < (p.span s).2.1 + (p.span s).2.2

/-- No byte is accessed by two accesses of the instruction. -/
def Apart (s : State) (d : VmDesc) (ps : Nat → List Piece) : Prop :=
  ((activeList s d.msk).flatMap ps).Pairwise (fun p q =>
    (p.span s).1 ≠ (q.span s).1 ∨ (p.span s).2.1 + (p.span s).2.2 ≤ (q.span s).2.1 ∨
      (q.span s).2.1 + (q.span s).2.2 ≤ (p.span s).2.1)

/-- No store of the instruction goes to a line in W (R102, R203). -/
def ToMemory (s : State) (na : Bool) (d : VmDesc) (ps : Nat → List Piece) : Prop :=
  ∀ e ∈ activeList s d.msk, ∀ p ∈ ps e, ∀ x, p.dst = .gen x → (s.way x p.raw.va na).na = false

/-- What a store of n bytes does when it is taken at once: bytes that no active element accesses stay, and an access of
whole bytes that meets no other access leaves its part of the element there. -/
def VStores (i : Instr) (a b : State → Word) (n : Nat) : Prop :=
  ∀ (s : State) (d : VmDesc) (ps : Nat → List Piece), VmReady s i d (capture s (a s) (b s) n) ps → Unaliased s d ps →
    ToMemory s d.na d ps → Completes i s (fun t =>
      (∀ l k, ¬ Touched s d ps l k → (spanMem t l).read k = (spanMem s l).read k) ∧
      (Apart s d ps → ∀ e ∈ activeList s d.msk, ∀ p ∈ ps e, p.raw.bits = 8 * p.raw.n →
        p.word t = dataElem (d.grab s.core) d.et p.raw.fld e / 2 ^ p.raw.shift % 2 ^ (8 * p.raw.n)) ∧
      ClusterRegsKept s t ∧ CoresKept s t (s.core.afterVm n))

/-! ## Engines, advice and windows -/

/-- An attach request is accepted: GRANT.want always, the tiles and their zeros where they fit; s[d] takes GRANT (R211). -/
def Attached (s t : State) (req : Word) (d : SReg) (n : Nat) (fits : Bool) : Prop :=
  let new := req.extractLsb' 8 4 &&& ~~~s.core.acc
  let c := { s.core with
    want := (req.extractLsb' 0 5).toNat, acc := if fits then s.core.acc ||| new else s.core.acc, z := t.core.z, wait := .none }
  t = { s with core := c.after d (grantImage c) n } ∧
  ∀ j : Fin 4, t.core.z[j] = if fits = true ∧ new.getLsbD j.val = true then 0 else s.core.z[j]

/-- An operation of n bytes joins the matrix unit's; no accumulator, tile state, scalar register or byte changes. -/
def MatIssued (s t : State) (i : Instr) (bKey round n : Nat) : Prop :=
  t.core.mats = s.core.mats ++ [newMat s i bKey round] ∧
  t.core.pc = s.core.pc + BitVec.ofNat 64 n ∧ t.core.wait = .none ∧ t.core.s = s.core.s ∧ t.core.z = s.core.z ∧
  (∀ x : TSlot, (t.core.tiles[x]).st = (s.core.tiles[x]).st ∧ (t.core.tiles[x]).fills = (s.core.tiles[x]).fills) ∧
  MemoryKept s t ∧ t.rest = s.rest

/-- A tile in a state, with at least n bytes. -/
def Core.tileIn (c : Core) (t : TSlot) (st : TileSt) (n : Nat) : Prop := (c.tiles[t]).st = st ∧ n ≤ (c.tiles[t]).len

/-- The bytes of local space outside a range, and all of generic memory, are as before. -/
def LocalElse (s t : State) (key n : Nat) : Prop :=
  (∀ k, (k < key ∨ key + n ≤ k) → t.loc.read k = s.loc.read k) ∧ t.mem = s.mem ∧ t.poison = s.poison

/-- A copy of n bytes of instruction joins those in flight; nothing has moved yet (R226). -/
def CopyIssued (s t : State) (x : CopyOp) (n : Nat) : Prop :=
  t.core.copies = s.core.copies ++ [x] ∧ t.core.pc = s.core.pc + BitVec.ofNat 64 n ∧ t.core.wait = .none ∧
  t.core.s = s.core.s ∧ MemoryKept s t ∧ t.rest = s.rest

/-- The sequencer behind an instruction that does not jump: past 0x1FFC it stops with cause 4 (R244, R250). -/
def Advice.passed (a : Advice) : Advice :=
  if 0x1FFC ≤ a.pc.toNat then { a with pc := a.pc + 4, st := .stopped, cause := 4 } else { a with pc := a.pc + 4 }

/-- An advice instruction changes the sequencer of the active core and nothing else. -/
def Advises (i : Instr) (s : State) (a : Advice) : Prop :=
  exec i s = .next { s with core := { s.core with adv := a } }

/-- An advice instruction changes the sequencer of the active core; what its translations read is loaded, and no byte of memory, no
other core and no register of a cluster changes. -/
def AdvisesOver (i : Instr) (s : State) (a : Advice) : Prop :=
  Completes i s (fun t => t.core = { s.core with adv := a } ∧ t.rest = s.rest ∧ MemoryKept s t ∧ ClusterRegsKept s t)

/-- The windows' part of the books after a command of a window is done with a code: the window holds the command, its
arguments (a command with one argument leaves arg1 as it is) and the code, status 2, and it is busy no more. -/
def Part.answered (p : Part) (j : Fin 16) (cmd : BitVec 8) (a0 : Word) (a1 : Option Word) (code : Nat) : Part :=
  { p with
    winQueue := p.winQueue.filter (fun k => k != j)
    windows := p.windows.set j { p.windows[j] with
      cmd := cmd, arg0 := a0, arg1 := a1.getD (p.windows[j]).arg1, st := 2, code := BitVec.ofNat 8 code } }

/-- A command of a window is done with a code. -/
def Answered (s t : State) (j : Fin 16) (cmd : BitVec 8) (a0 : Word) (a1 : Option Word) (code : Nat) : Prop :=
  t.part.windows = (s.part.answered j cmd a0 a1 code).windows ∧ t.part.winQueue = (s.part.answered j cmd a0 a1 code).winQueue

/-- A command changes its window, and whether it is busy, alone. -/
def OnlyAnswers (i : Instr) (s : State) (j : Fin 16) (cmd : BitVec 8) (a0 : Word) (a1 : Option Word) (code : Nat) : Prop :=
  exec i s = .next { s with part := s.part.answered j cmd a0 a1 code }

/-- A message of management answers some bytes and changes nothing else. -/
def Answers (i : Instr) (s : State) (b : List Byte) : Prop :=
  exec i s = .next { s with part := { s.part with answers := s.part.answers ++ [.bytes b] } }

/-! ## The AP's turn -/

/-- Nothing moves before the active core's AP, and nothing keeps it from fetching and running the instruction at its pc. -/
def ApMoves (s : State) : Prop :=
  s.agenda = [] ∧ partHeld s = false ∧ due s = none ∧ coreWork s = none ∧ s.core.adv.due = false ∧ s.issued = false ∧
  apReady s.core = true ∧ s.core.wait = .none ∧ pendingCopy s.core = none ∧ pendingMat s.core = none ∧
  budgetOver s = false ∧ (s.core.dbg.passBp = true ∨ bpHit s.core = none) ∧ settling s.core = false

/-- Tokens of a line at a place, as the token table tells (R93). -/
def tokensAt (s : State) (line place : Nat) : Nat := tokAt (findTok s.coh line) place

/-- The words of an instruction stand in memory from a virtual address on, where the active core may fetch them: its
instruction cache holds none of their lines, no die asks for tokens, and no line of bonded DRAM is dirty. -/
def CodeAt (s : State) (va : Word) (ws : List IWord) : Prop :=
  s.coh.reqs = [] ∧ s.coh.persist = [] ∧ NoAlias s ∧
  ∀ k w, ws[k]? = some w → ∃ x, s.check .fetch (va + BitVec.ofNat 64 (4 * k)) = .ok x ∧
    touchesPoison s.poison (memKey s.part x.pa) 4 = false ∧ s.mem.readN (memKey s.part x.pa) 4 = w.toNat ∧
    s.core.icache.find? (fun l => l.line == lineOf x.pa) = none

end Sys2Proof.Machine
end

