-- ==== Sys2Proof/Certificates/Slice0/Obligations.lean ====
section
/-! DEFINITION. The statements about the machine, for the provers. -/

open Sys2Proof Sys2Proof.Machine

/-! ## Class 0 -/

/-- R147, R148: source b in each form; extension of the low 8, 16 or 32 bits, moves and selection. -/
def Obligations.OperandsAndMoves : Prop :=
  (∀ (s : State) (e : Bool) (b : SReg) (i6 f : BitVec 6) (i32 : BitVec 32) (v : Word),
      srcBVal s (.reg e b) = (if b = 0 then 0 else s.core.s[b]) ∧ srcBVal s (.imm6 i6) = i6.signExtend 64 ∧
      srcBVal s (.imm32 f i32) = i32.signExtend 64 ∧ srcBVal s (.lit e v) = v) ∧
  (Unary (fun e d a => .sxt e d a 0) (fun x => (x.extractLsb' 0 8).signExtend 64) ∧
    Unary (fun e d a => .sxt e d a 1) (fun x => (x.extractLsb' 0 16).signExtend 64) ∧
    Unary (fun e d a => .sxt e d a 2) (fun x => (x.extractLsb' 0 32).signExtend 64) ∧
    Unary (fun e d a => .zxt e d a 0) (fun x => (x.extractLsb' 0 8).zeroExtend 64) ∧
    Unary (fun e d a => .zxt e d a 1) (fun x => (x.extractLsb' 0 16).zeroExtend 64) ∧
    Unary (fun e d a => .zxt e d a 2) (fun x => (x.extractLsb' 0 32).zeroExtend 64) ∧
    Unary .mov (fun x => x) ∧
    (∀ (d : SReg) (y : SrcB) (s : State), Completes (.li d y) s (fun t => Wrote s t d (srcBVal s y) (srcBLen y))) ∧
    (∀ (d a c : SReg) (y : SrcB) (s : State), Completes (.sel d a c y) s
      (fun t => Wrote s t d (if s.sreg c ≠ 0 then s.sreg a else srcBVal s y) (srcBLen y))))

/-- R148, R52: bitwise operations, sums and low products, lea among them; bits 127..64 of the exact product; a quotient truncates
towards zero, and by zero is the end of the range on the dividend's side, all ones for n types, with the dividend as the
remainder. -/
def Obligations.SumsProductsQuotients : Prop :=
  (Binary .add (fun x y => x + y) ∧ Binary .sub (fun x y => x - y) ∧ Binary .mul (fun x y => x * y) ∧
  Binary .and (fun x y => x &&& y) ∧ Binary .or (fun x y => x ||| y) ∧ Binary .xor (fun x y => x ^^^ y) ∧
  Binary .andn (fun x y => x &&& ~~~y) ∧ Binary .orn (fun x y => x ||| ~~~y) ∧ Binary .lea (fun x y => x + y) ∧
  (∀ (d : SReg) (off : BitVec 32) (s : State),
    Completes (.leaPc d off) s (fun t => Wrote s t d (s.core.pc + off.signExtend 64) 12))) ∧
  ((Binary .mulh (fun x y => (x.signExtend 128 * y.signExtend 128).extractLsb' 64 64) ∧
    Binary .mulhn (fun x y => (x.zeroExtend 128 * y.zeroExtend 128).extractLsb' 64 64)) ∧
  (Binary .div (fun x y => if y = 0 then (if x.slt 0 then BitVec.intMin 64 else BitVec.intMax 64) else x.sdiv y) ∧
    Binary .divn (fun x y => if y = 0 then BitVec.allOnes 64 else x / y) ∧
    Binary .rem (fun x y => if y = 0 then x else x.srem y) ∧
    Binary .remn (fun x y => if y = 0 then x else x % y)))

/-- R148: shifts and rotation by y mod 64; comparisons, minima and maxima; leading zeros, trailing zeros and one bits, by looking
at each bit. -/
def Obligations.ShiftsAndComparisons : Prop :=
  (Binary .shl (fun x y => x <<< (y &&& 63)) ∧ Binary .shr (fun x y => x >>> (y &&& 63)) ∧
    Binary .sra (fun x y => BitVec.ofInt 64 (x.toInt / 2 ^ (y.toNat % 64))) ∧
    Binary .rot (fun x y => (x <<< (y &&& 63)) ||| (x >>> (64 - (y &&& 63))))) ∧
  (Binary .slt (fun x y => if x.toInt < y.toInt then 1 else 0) ∧ Binary .sltn (fun x y => if x.toNat < y.toNat then 1 else 0) ∧
    Binary .seq (fun x y => if x = y then 1 else 0) ∧
    Binary .min (fun x y => if x.toInt ≤ y.toInt then x else y) ∧ Binary .max (fun x y => if x.toInt ≤ y.toInt then y else x) ∧
    Binary .minn (fun x y => if x.toNat ≤ y.toNat then x else y) ∧ Binary .maxn (fun x y => if x.toNat ≤ y.toNat then y else x)) ∧
  (Unary .clz (fun x => BitVec.ofNat 64 ((List.range 64).takeWhile (fun i => !x.getMsbD i)).length) ∧
    Unary .ctz (fun x => BitVec.ofNat 64 ((List.range 64).takeWhile (fun i => !x.getLsbD i)).length) ∧
    Unary .popc (fun x => BitVec.ofNat 64 ((List.range 64).filter (fun i => x.getLsbD i)).length))

/-! ## Class 1 -/

/-- R149, R69: a load of generic memory reads its bytes, extends them, and changes no byte of memory, where the line does not
stand dirty under its other address; a store puts the low bytes of s[d] at the address it computes, and changes no other byte. -/
def Obligations.ScalarLoadsAndStores : Prop :=
  (∀ (w : LdW) (d a : SReg) (o : AddrB) (s : State) (x : Xl),
    Quiet s → s.core.vmq = [] → (addrBVal s a o).extractLsb' 48 16 = 0 → alignedTo (addrBVal s a o) (ldBytes w) = true →
    s.check .load (addrBVal s a o) = .ok x → touchesPoison s.poison (memKey s.part x.pa) (ldBytes w) = false →
    aliasDirty s (lineOf x.pa) = false →
    Completes (.ld w d a o) s (fun t =>
      CoresKept s t (s.core.after d (ldExtend w (s.mem.readN (memKey s.part x.pa) (ldBytes w))) (addrBLen o)) ∧
      t.core.wait = .none ∧ MemoryKept s t ∧ ClusterRegsKept s t ∧ Quiet t)) ∧
  (∀ (w : StW) (d a : SReg) (o : AddrB) (s : State) (x : Xl),
    Quiet s → s.core.vmq = [] → (addrBVal s a o).extractLsb' 48 16 = 0 → alignedTo (addrBVal s a o) (stBytes w) = true →
    s.check .store (addrBVal s a o) = .ok x → (s.way x (addrBVal s a o) false).na = false →
    aliasDirty s (lineOf x.pa) = false →
    Completes (.st w d a o) s (fun t =>
      Stored s.mem t.mem (memKey s.part x.pa) (stBytes w) (s.sreg d).toNat ∧
      (∀ k, t.loc.read k = s.loc.read k) ∧ t.poison = s.poison ∧ t.locPoison = s.locPoison ∧
      CoresKept s t { s.core with pc := s.core.pc + BitVec.ofNat 64 (addrBLen o) } ∧ t.core.wait = .none ∧
      ClusterRegsKept s t ∧ Quiet t))

/-- R149, R70, R75: loads and stores of local space, at bytes and at a FIFO bank, where no other party of the same direction has
arrived before; a way to another cluster is charged, and nothing else changes. -/
def Obligations.LocalAccess : Prop :=
  (∀ (w : LdW) (d a : SReg) (o : AddrB) (s : State) (l : BitVec 40) (key : Nat), s.core.vmq = [] →
    untagged (addrBVal s a o) = some l → localCheck s l = .ok (.bytes key) → alignedTo (addrBVal s a o) (ldBytes w) = true →
    touchesPoison s.locPoison key (ldBytes w) = false →
    Completes (.ldl w d a o) s (fun t => Charged s.part t.part ∧
      Wrote { s with part := t.part } t d (ldExtend w (s.loc.readN key (ldBytes w))) (addrBLen o))) ∧
  (∀ (w : StW) (d a : SReg) (o : AddrB) (s : State) (l : BitVec 40) (key : Nat), s.core.vmq = [] →
    untagged (addrBVal s a o) = some l → localCheck s l = .ok (.bytes key) → alignedTo (addrBVal s a o) (stBytes w) = true →
    Completes (.stl w d a o) s (fun t =>
      Stored s.loc t.loc key (stBytes w) (s.sreg d).toNat ∧ t.mem = s.mem ∧ Charged s.part t.part ∧
      CoresKept s t { s.core with pc := s.core.pc + BitVec.ofNat 64 (addrBLen o) } ∧ t.core.wait = .none)) ∧
  (∀ (d a : SReg) (o : AddrB) (s : State) (l : BitVec 40) (b : Fin 32) (x : Word) (q : List Word), s.core.vmq = [] →
    untagged (addrBVal s a o) = some l → localCheck s l = .ok (.fifo b) → alignedTo (addrBVal s a o) 8 = true →
    (getCl s s.cl).fifo[b] = x :: q → fifoTurn s b false false = true → (b, 0) ∉ (getCl s s.cl).fifoBad →
    Completes (.ldl .d64 d a o) s (fun t => (getCl t t.cl).fifo[b] = q ∧ MemoryKept s t ∧
      CoresKept s t ({ s.core with queueEdges := 0 }.after d x (addrBLen o)))) ∧
  (∀ (d a : SReg) (o : AddrB) (s : State) (l : BitVec 40) (b : Fin 32), s.core.vmq = [] →
    untagged (addrBVal s a o) = some l → localCheck s l = .ok (.fifo b) → alignedTo (addrBVal s a o) 8 = true →
    ((getCl s s.cl).fifo[b]).length < 16384 → fifoTurn s b true false = true →
    Completes (.stl .b64 d a o) s (fun t => (getCl t t.cl).fifo[b] = (getCl s s.cl).fifo[b] ++ [s.sreg d] ∧ MemoryKept s t ∧
      CoresKept s t { s.core with pc := s.core.pc + BitVec.ofNat 64 (addrBLen o), queueEdges := 0 }))

/-- R150, R151, R152: the atomics in both widths and every ordering, at a word of local space and of generic memory; the page is
one that may be written, also where the comparison of a compare-and-swap fails; behind an acquire, the reads queued until then
hold every later access. -/
def Obligations.Atomics : Prop :=
  (∀ (ord : AmoOrd) (w64 : Bool) (sc : Scope) (d a b : SReg) (off : BitVec 32) (s : State) (l : BitVec 40) (key : Nat),
      Quiet s → s.core.vmq = [] → tagged (s.sreg a + s.sreg b + off.signExtend 64) = .loc l →
      localCheck s l = .ok (.bytes key) → alignedTo (s.sreg a + s.sreg b + off.signExtend 64) (amoBytes w64) = true →
      touchesPoison s.locPoison key (amoBytes w64) = false →
      (∀ op, Completes (.amo op ord w64 sc d a b off) s (fun t =>
        Stored s.loc t.loc key (amoBytes w64)
          (amoWord op (wordAt s.loc key (amoBytes w64)) (lowBytes (s.sreg d) (amoBytes w64))).toNat ∧
        t.mem = s.mem ∧ t.locPoison = s.locPoison ∧ ClusterRegsKept s t ∧
        CoresKept s t { s.core.after d (amoOld op (wordAt s.loc key (amoBytes w64))) 12 with
          acqSeq := if ordAcquires ord then s.core.seq else s.core.acqSeq })) ∧
      (∀ c, Completes (.amoCas ord w64 sc d a b c off) s (fun t =>
        (if wordAt s.loc key (amoBytes w64) = lowBytes (s.sreg d) (amoBytes w64) then
            Stored s.loc t.loc key (amoBytes w64) (s.sreg c).toNat
          else t.loc = s.loc) ∧ t.mem = s.mem ∧ t.locPoison = s.locPoison ∧ ClusterRegsKept s t ∧
        CoresKept s t { s.core.after d ((wordAt s.loc key (amoBytes w64)).zeroExtend 64) 12 with
          acqSeq := if ordAcquires ord then s.core.seq else s.core.acqSeq }))) ∧
  (∀ (ord : AmoOrd) (w64 : Bool) (sc : Scope) (d a b : SReg) (off : BitVec 32) (s : State) (g : Word) (x : Xl),
      Quiet s → s.core.vmq = [] → tagged (s.sreg a + s.sreg b + off.signExtend 64) = .gen g → g.extractLsb' 48 16 = 0 →
      alignedTo g (amoBytes w64) = true → s.check .atomic g = .ok x →
      touchesPoison s.poison (memKey s.part x.pa) (amoBytes w64) = false → aliasDirty s (lineOf x.pa) = false →
      (∀ op, Completes (.amo op ord w64 sc d a b off) s (fun t =>
        Stored s.mem t.mem (memKey s.part x.pa) (amoBytes w64)
          (amoWord op (wordAt s.mem (memKey s.part x.pa) (amoBytes w64)) (lowBytes (s.sreg d) (amoBytes w64))).toNat ∧
        t.loc = s.loc ∧ t.poison = s.poison ∧ ClusterRegsKept s t ∧
        CoresKept s t { s.core.after d (amoOld op (wordAt s.mem (memKey s.part x.pa) (amoBytes w64))) 12 with
          acqSeq := if ordAcquires ord then s.core.seq else s.core.acqSeq })) ∧
      (∀ c, Completes (.amoCas ord w64 sc d a b c off) s (fun t =>
        (if wordAt s.mem (memKey s.part x.pa) (amoBytes w64) = lowBytes (s.sreg d) (amoBytes w64) then
            Stored s.mem t.mem (memKey s.part x.pa) (amoBytes w64) (s.sreg c).toNat
          else t.mem = s.mem) ∧ t.loc = s.loc ∧ t.poison = s.poison ∧ ClusterRegsKept s t ∧
        CoresKept s t { s.core.after d ((wordAt s.mem (memKey s.part x.pa) (amoBytes w64)).zeroExtend 64) 12 with
          acqSeq := if ordAcquires ord then s.core.seq else s.core.acqSeq })))

/-- R153: the semaphores and the data registers of a cluster, where they are assigned to the virtual device and no queued access
has a fence that orders them; a bit that is taken acquires. -/
def Obligations.ClusterRegisters : Prop :=
  (∀ (s : State) (j : Fin 64), semOk s j = true →
      (semBusy (getCl s s.cl) j = false → (getCl s s.cl).semGrant.contains (j, s.core.index) = false →
        Completes (.semtas j) s (fun t => (getCl t t.cl).sem = (getCl s s.cl).sem ||| BitVec.twoPow 64 j.val ∧
          MemoryKept s t ∧ CoresKept s t { s.core with pc := s.core.pc + 4, acqSeq := s.core.seq })) ∧
      ((getCl s s.cl).semGrant.contains (j, s.core.index) = true → Completes (.semtas j) s (fun t =>
        (getCl t t.cl).sem = (getCl s s.cl).sem ∧ (getCl t t.cl).semGrant.contains (j, s.core.index) = false ∧
        MemoryKept s t ∧ CoresKept s t { s.core with pc := s.core.pc + 4, acqSeq := s.core.seq })) ∧
      (∀ d, Completes (.semtry d j) s (fun t =>
        (getCl t t.cl).sem = (if semBusy (getCl s s.cl) j then (getCl s s.cl).sem else (getCl s s.cl).sem ||| BitVec.twoPow 64 j.val) ∧
        MemoryKept s t ∧ CoresKept s t { s.core.after d (if semBusy (getCl s s.cl) j then 0 else 1) 4 with
          acqSeq := if semBusy (getCl s s.cl) j then s.core.acqSeq else s.core.seq })) ∧
      Completes (.semset j) s (fun t => (getCl t t.cl).sem = (getCl s s.cl).sem ||| BitVec.twoPow 64 j.val ∧
        (getCl t t.cl).semGrant = (getCl s s.cl).semGrant ∧ MemoryKept s t ∧ CoresKept s t { s.core with pc := s.core.pc + 4 }) ∧
      (Quiet s → s.core.vmq = [] → (getCl s s.cl).semWait.any (fun w => w.1 == j) = false →
        Completes (.semclr j) s (fun t => (getCl t t.cl).sem = (getCl s s.cl).sem &&& ~~~(BitVec.twoPow 64 j.val) ∧
          MemoryKept s t ∧ CoresKept s t { s.core with pc := s.core.pc + 4 })) ∧
      (∀ w, Quiet s → s.core.vmq = [] → (getCl s s.cl).semWait.find? (fun w => w.1 == j) = some w →
        Completes (.semclr j) s (fun t => (getCl t t.cl).sem = (getCl s s.cl).sem ∧ w ∈ (getCl t t.cl).semGrant ∧
          MemoryKept s t ∧ CoresKept s t { s.core with pc := s.core.pc + 4 }))) ∧
  (∀ (s : State) (j : Fin 32), cdOk s j = true → vmqFences s true = false →
      (∀ d, Completes (.cdrd d j) s (fun t => Wrote s t d (getCl s s.cl).cd[j] 4)) ∧
      (∀ a, Completes (.cdwr j a) s (fun t => (getCl t t.cl).cd = (getCl s s.cl).cd.set j (s.sreg a) ∧
        MemoryKept s t ∧ CoresKept s t { s.core with pc := s.core.pc + 4 })) ∧
      (∀ d a, Completes (.cdadd d j a) s (fun t => (getCl t t.cl).cd = (getCl s s.cl).cd.set j ((getCl s s.cl).cd[j] + s.sreg a) ∧
        MemoryKept s t ∧ CoresKept s t (s.core.after d (getCl s s.cl).cd[j] 4))))

/-! ## Class 2 -/

/-- R154, R155: branches, jumps and calls; a call reads its target before it writes s[d]; a target register whose bits 1..0 are
not zero raises an alignment fault, and the jump does not occur. -/
def Obligations.JumpsAndBranches : Prop :=
  (∀ s : State,
      (∀ (c : Cond) (a : SReg) (y : RegLit) (off : BitVec 32),
        let taken : Prop := match c with
          | .eq => s.sreg a = regLitVal s y
          | .ne => s.sreg a ≠ regLitVal s y
          | .lt => (s.sreg a).toInt < (regLitVal s y).toInt
          | .ge => (regLitVal s y).toInt ≤ (s.sreg a).toInt
          | .ltn => (s.sreg a).toNat < (regLitVal s y).toNat
          | .gen => (regLitVal s y).toNat ≤ (s.sreg a).toNat
        (taken → Completes (.bcc c a y off) s (fun t => Went s t (s.core.pc + 4 * off.signExtend 64))) ∧
        (¬ taken → Completes (.bcc c a y off) s (fun t => Went s t (s.core.pc + BitVec.ofNat 64 (regLitLen y))))) ∧
      (∀ off, Completes (.jmpOff off) s (fun t => Went s t (s.core.pc + 4 * off.signExtend 64))) ∧
      (∀ d off, Completes (.callOff d off) s (fun t => ∃ u, Wrote s u d (s.core.pc + 12) 12 ∧
        Went u t (s.core.pc + 4 * off.signExtend 64))) ∧
      (∀ a, (s.sreg a).extractLsb' 0 2 = 0 →
        Completes (.jmpReg a) s (fun t => Went s t (s.sreg a)) ∧ Completes (.ret a) s (fun t => Went s t (s.sreg a)) ∧
        ∀ d, Completes (.callReg d a) s (fun t => ∃ u, Wrote s u d (s.core.pc + 4) 4 ∧ Went u t (s.sreg a)))) ∧
  (∀ (s : State) (d a : SReg), (s.sreg a).extractLsb' 0 2 ≠ 0 →
      let t := takeFault s { kind := 5, pc := s.core.pc, strip := s.core.stripBase, sub := 0, addr := some (s.sreg a) }
      exec (.jmpReg a) s = .next t ∧ exec (.callReg d a) s = .next t ∧ exec (.ret a) s = .next t) ∧
  (∀ (r : Sys2Proof.Raw) (c : Cond) (a : SReg) (y : RegLit) (off : BitVec 32), decodeRaw r = some (.bcc c a y off) →
      r.isExt = true ∧ r.base.d = 0 ∧ r.x.word1 = 0 ∧ r.x.w2 = off ∧ r.base.a = BitVec.ofNat 6 a.val ∧
      r.base.fn = (match c with | .eq => 0 | .ne => 1 | .lt => 2 | .ge => 3 | .ltn => 4 | .gen => 5) ∧
      match y with
      | .reg b => r.hasLit = false ∧ r.base.b = BitVec.ofNat 6 b.val
      | .lit v => r.hasLit = true ∧ r.litV = v)

/-- R156 to R158, R37, R38: the scalar queues at the AP, empty, full and neither; q7 takes bit 0 of a value; bflag branches where
the status it samples is the one it names. -/
def Obligations.QueuesAndFlags : Prop :=
  (∀ s : State,
      (∀ (x : Word) (l : List Word), s.core.q6 = x :: l →
        (∀ d, Completes (.qpop d) s (fun t => t.core = { s.core.after d x 4 with q6 := l, wait := .none, queueEdges := 0 } ∧
          t = { s with core := t.core })) ∧
        (∀ (zero : Bool) (off : BitVec 32), Completes (.bq zero off) s (fun t =>
          t = { s with core := { s.core with
            q6 := l, wait := .none, queueEdges := 0
            pc := if (if zero then x = 0 else x ≠ 0) then s.core.pc + 4 * off.signExtend 64 else s.core.pc + 12 } }))) ∧
      (s.core.q6 = [] → s.core.wait ≠ .q6 → ∀ (d : SReg) (zero : Bool) (off : BitVec 32),
        let t := { s with core := { s.core with resync := s.core.resync + 1, wait := .q6 } }
        exec (.qpop d) s = .next t ∧ exec (.bq zero off) s = .next t ∧ exec (.qpop d) t = .next t ∧ exec (.bq zero off) t = .next t) ∧
      (∀ y : PushSrc,
        (s.core.q4.length < 32 → Completes (.qpush .q4 y) s (fun t => t = { s with core := { s.core with
          q4 := s.core.q4 ++ [pushSrcVal s y], pc := s.core.pc + BitVec.ofNat 64 (pushSrcLen y), wait := .none, queueEdges := 0 } })) ∧
        (s.core.q5.length < 32 → Completes (.qpush .q5 y) s (fun t => t = { s with core := { s.core with
          q5 := s.core.q5 ++ [pushSrcVal s y], pc := s.core.pc + BitVec.ofNat 64 (pushSrcLen y), wait := .none, queueEdges := 0 } })) ∧
        (s.core.q7.length < 64 → Completes (.qpush .q7 y) s (fun t => t = { s with core := { s.core with
          q7 := s.core.q7 ++ [(pushSrcVal s y).getLsbD 0], pc := s.core.pc + BitVec.ofNat 64 (pushSrcLen y), wait := .none
          queueEdges := 0 } })) ∧
        (32 ≤ s.core.q4.length → exec (.qpush .q4 y) s = .next { s with core := { s.core with wait := .push 4 } }))) ∧
  (∀ (st : FlagSt) (k : FlagSel) (off : BitVec 32) (a : SReg) (s : State),
      Completes (.bflag st k off) s (fun t =>
        Went s t (if flagStatus s k = st then s.core.pc + 4 * off.signExtend 64 else s.core.pc + 12)) ∧
      (flagStatus s (.cc a) = .faulted ↔ ∃ c ∈ s.core.copies, c.ctr = some (s.sreg a) ∧ c.st ≠ .moving) ∧
      (flagStatus s (.cc a) = .done ↔ ∀ c ∈ s.core.copies, c.ctr ≠ some (s.sreg a)) ∧
      (∀ z, flagStatus s (.acc z) = .done ↔ ∀ m ∈ s.core.mats, matNames m.ins ≠ some z) ∧
      (∀ q : Fin 4, s.core.streams[q] = none → flagStatus s (.strm q) = .done))

/-- R39, R40, R42, R43: a strip begins, on a core whose queues hold no older vector: VL, the result, the strip registers; the
belay point poisons the registers outside the live mask and keeps those in it. Model: That setvl's belay point runs at once on
such a core is the model's choice (log 2). -/
def Obligations.StripsAndBelay : Prop :=
  (∀ (w : VW) (d a : SReg) (cap : RegLit) (live : BitVec 32) (s : State),
      s.core.viq = [] → s.slowEp = false → (∀ q : Fin 4, s.core.vq[q] = []) → preemptPending s = false → s.core.adv.st = .off →
      1 ≤ setvlCap s w cap → setvlCap s w cap ≤ vlmax (vwBits w) →
      Completes (.setvl w d a cap live) s (fun t =>
        let base := s.core.stripNext.toNat
        let n := (s.sreg a).toNat
        let vl := min (n - base) (setvlCap s w cap)
        t.core = { s.core.after d (BitVec.ofNat 64 vl) (regLitLen cap) with
          vl := vl, stripBase := s.core.stripNext, team := false, wait := .none, seq := s.core.seq + 1, stripNs := 0
          stripNext := if base < n then BitVec.ofNat 64 (base + vl) else 0
          poisonV := s.core.poisonV ||| ~~~live } ∧ t = { s with core := t.core }) ∧
      (∀ cd : Fin 32, cdOk s cd = true → vmqFences s true = false → (getCl s s.cl).cd[cd].toNat + 2 * setvlCap s w cap < 2 ^ 64 →
        Completes (.setvlTeam w d a cd cap live) s (fun t =>
          let base := (getCl s s.cl).cd[cd].toNat
          let vl := min ((s.sreg a).toNat - base) (setvlCap s w cap)
          CoresKept s t { s.core.after d (BitVec.ofNat 64 vl) (regLitLen cap) with
            vl := vl, stripBase := (getCl s s.cl).cd[cd], team := true, seq := s.core.seq + 1, stripNs := 0, stripNext := 0
            poisonV := s.core.poisonV ||| ~~~live } ∧
          (getCl t t.cl).cd = (getCl s s.cl).cd.set cd (BitVec.ofNat 64 (base + setvlCap s w cap)) ∧ MemoryKept s t))) ∧
  (∀ (live : BitVec 32) (base : Word) (s : State),
      (∀ q : Fin 4, s.core.vq[q] = []) → preemptPending s = false → s.core.adv.st = .off →
      Completes (.belayPoint live base) s (fun t =>
        t = { s with core := { s.core with poisonV := s.core.poisonV ||| ~~~live, stripNs := 0 } } ∧
        (∀ r : VReg, live.getLsbD r.val = true → t.core.isPoisoned r = s.core.isPoisoned r) ∧
        (∀ r : VReg, live.getLsbD r.val = false → t.core.isPoisoned r = true)))

/-- R110, R160, R162, R165: nop and yield move the pc alone; a cairn is posted with its strip's base, discarded while the
sequencer is off or stopped, and a full FIFO is discarded for it and counted; tstamp and rdcycle write the two counters to
s[d] when the AP issues them; wait holds the AP for s[a] clk, at most 2^32, none while a pre-emption is requested, and then
goes on. In every state each of them completes. Model: That yield's slot and its ends other than the clk are not seen is the
model's choice (log 4). -/
def Obligations.TimeAndNothing : Prop :=
  ∀ s : State,
    (Completes .nop s (fun t => Went s t (s.core.pc + 4)) ∧ Completes .yield s (fun t => Went s t (s.core.pc + 4))) ∧
    (∀ n, (s.core.adv.st = .off ∨ s.core.adv.st = .stopped) → Completes (.cairn n) s (fun t => Went s t (s.core.pc + 4))) ∧
    (∀ n, s.core.adv.st ≠ .off → s.core.adv.st ≠ .stopped → s.core.adv.fifo.length < 64 → Completes (.cairn n) s (fun t =>
      t = { s with core := { s.core with
        pc := s.core.pc + 4, wait := .none
        adv := { s.core.adv with fifo := s.core.adv.fifo ++ [(n, s.core.stripBase)] } } })) ∧
    (∀ n, s.core.adv.st ≠ .off → s.core.adv.st ≠ .stopped → 64 ≤ s.core.adv.fifo.length → Completes (.cairn n) s (fun t =>
      t = { s with core := { s.core with
        pc := s.core.pc + 4, wait := .none
        adv := { s.core.adv with fifo := [(n, s.core.stripBase)], overflow := true }
        advCnt := { s.core.advCnt with lag := BitVec.ofNat 16 (min 0xFFFF (s.core.advCnt.lag.toNat + 64)) } } })) ∧
    (∀ d, Completes (.tstamp d) s (fun t => Wrote s t d s.part.tstamp 4)) ∧
    (∀ d, Completes (.rdcycle d) s (fun t => Wrote s t d s.part.dies[s.die].cycle 4)) ∧
    (∀ a, s.core.wait = .clocks 0 → Completes (.wait a) s (fun t => Went s t (s.core.pc + 4))) ∧
    (∀ a n, s.core.wait = .clocks (n + 1) → Completes (.wait a) s (fun t =>
      if preemptPending s then Went s t (s.core.pc + 4) else t = s)) ∧
    (∀ a, (∀ n, s.core.wait ≠ .clocks n) → Completes (.wait a) s (fun t =>
      if s.sreg a = 0 ∨ preemptPending s = true then Went s t (s.core.pc + 4)
      else t = { s with core := { s.core with wait := .clocks (min (s.sreg a).toNat (2 ^ 32)) } })) ∧
    (∀ n, s.core.wait = .clocks n → Completes .waitTimeout s (fun t => Went s t (s.core.pc + 4))) ∧
    ((∀ n, s.core.wait ≠ .clocks n) → Completes .waitTimeout s (fun t => t = s))

/-- R162, R341, R347: a trap outside the S view enters the supervisor with kind 22 and code n, to return behind the trap; s56 is
the address of its record, and every other core of the group is held; the trap waits while the vector memory queue holds what
can be performed. -/
def Obligations.TrapEntersSupervisor : Prop :=
  ∀ (n : BitVec 6) (s : State), s.core.view ≠ .s →
    (entryWaits s = true → exec (.trap n) s = .next { s with core := { s.core with wait := .behind } }) ∧
    (entryWaits s = false → s.core.run ≠ .yielded → Completes (.trap n) s (fun t => Entered s.core t.core 22 (s.core.pc + 4) ∧
      t.core.s[56] = (coreRecord s { kind := 22, pc := s.core.pc, strip := s.core.stripBase, sub := n.zeroExtend 16 } true false).2 ∧
      (∀ c ∈ t.rest, inGroup s.core.cgid c = true → c.entry = none → c.held = true)))

/-- R162, R236, R287, R348: eret in the S view after an entry waits for what the vector memory queue can perform; then the bank is
exchanged back, the view U, the pc where the entry said, and no cached translation of the faulting page left; the S-view
instructions in the U view raise a privilege fault, which kills the group. -/
def Obligations.ReturnAndPrivilege : Prop :=
  (∀ (s : State) (e : Entry), s.core.view = .s → s.core.entry = some e → releaseWaits s = true →
      exec .eret s = .next { s with core := { s.core with wait := .behind } }) ∧
  (∀ (s : State) (e : Entry), s.core.view = .s → s.core.entry = some e → Quiet s → releaseWaits s = false →
      Completes .eret s (fun t => t.core.view = .u ∧ t.core.pc = e.ret ∧ t.core.entry = none ∧ t.core.wait = e.wait ∧
        (∀ r : Fin 64, r.val < 56 → t.core.s[r] = s.core.s[r]) ∧ (∀ j : Fin 8, t.core.s[j.val + 56] = s.core.sBank[j]) ∧
        (∀ j : Fin 8, t.core.sBank[j] = s.core.s[j.val + 56]) ∧
        t.core = { s.core with
          view := .u, pc := e.ret, entry := none, wait := e.wait, s := t.core.s, sBank := t.core.sBank, held := t.core.held
          late := 0, tlb := t.core.tlb } ∧
        (∀ x ∈ t.core.tlb, x ∈ s.core.tlb) ∧
        (∀ a, e.page = some a → tlbHit (t.core.tlb ++ (getCl t t.cl).tlb) s.core.vdid a.toNat = none) ∧
        ((∀ c ∈ s.rest, inGroup s.core.cgid c = true → c.entry = none) →
          t.core.held = false ∧ ∀ c ∈ t.rest, inGroup s.core.cgid c = true → c.held = false) ∧
        MemoryKept s t)) ∧
  (∀ (s : State) (d a : SReg), s.core.view = .u →
      let t := takeKill s { kind := 4, pc := s.core.pc, strip := s.core.stripBase }
      exec .eret s = .next t ∧ exec (.pgrefInc d a) s = .next t ∧ exec (.pgrefDec d a) s = .next t ∧
      exec (.pgrefRd d a) s = .next t ∧ exec (.tlbinvPage a) s = .next t ∧ exec .tlbinvAll s = .next t ∧
      exec (.sysrd d 0x100) s = .next t ∧ exec (.syswr d 0x100) s = .next t ∧ exec (.vresume d) s = .next t)

/-- R342, R345, R346: the kinds that enter the supervisor; kind 30 enters it where every faulting page's kind is such a one, and
kills otherwise; the records of kinds 25, 26 and 31 are written and no core changes; every other kind kills, and during a
pre-emption save every one; what a kill does to every core of the group. -/
def Obligations.FaultsAndKills : Prop :=
  ((∀ k : BitVec 8, repairKind k = true ↔ k = 8 ∨ k = 11 ∨ k = 12 ∨ k = 13 ∨ k = 14 ∨ k = 22 ∨ k = 23) ∧
    (∀ (s : State) (f : FaultInfo), s.core.view ≠ .s → repairKind f.kind = false → f.kind ≠ 25 → f.kind ≠ 26 → f.kind ≠ 30 →
      f.kind ≠ 31 → takeFault s f = takeKill s f) ∧
    (∀ (s : State) (f : FaultInfo), s.core.view = .s → f.kind ≠ 25 → f.kind ≠ 26 → f.kind ≠ 31 →
      takeFault s f = takeKill s { f with kind := 27 }) ∧
    (∀ (s : State) (f : FaultInfo), s.core.view ≠ .s → repairKind f.kind = true → entryWaits s = false →
      (s.core.run ≠ .yielded → Entered s.core (takeFault s f).core f.kind s.core.pc) ∧
      (s.core.run = .yielded → takeFault s f = takeKill s f))) ∧
  (∀ (s : State) (op : VmOp) (recs : List PartRec) (left : List Nat), op.cap.sup = false → s.core.view = .u →
      s.core.run ≠ .off →
      (s.core.run ≠ .yielded → (∀ r ∈ recs, repairKind r.kind = true) →
        let c := (takePart s op recs left).core
        c.view = .s ∧ c.pc = 0x0000FFFFFFFF0000 ∧ c.s[57] = 30 ∧ c.pmask = pmaskOf left ∧ c.run = s.core.run ∧
        ∃ e, c.entry = some e ∧ e.ret = s.core.pc ∧ e.vector = true) ∧
      ((∃ r ∈ recs, repairKind r.kind = false) → (takePart s op recs left).core.run = .done)) ∧
  (∀ (s : State) (d : Vd) (u : Issuer) (kind : BitVec 8) (sub : Nat) (va fin cgid : Word) (t : State), Quiet s →
      (kind = 25 ∨ kind = 26 → rejectLaunch s d u kind sub va fin false = some t →
        CoresKept s t s.core ∧ t.part.groups = s.part.groups) ∧
      (t = finishRecord s d.vdid (cgid.extractLsb' 0 32) fin → CoresKept s t s.core ∧ t.part.groups = s.part.groups)) ∧
  (∀ (s : State) (f : FaultInfo), (∀ c ∈ s.rest, c.index ≠ s.core.index) → s.rest.Pairwise (fun x y => x.index ≠ y.index) →
      s.core.run ≠ .off →
      ∀ c ∈ (takeKill s f).cores, c.cgid = s.core.cgid → (s.getCore c.index).run ≠ .off →
        c.run = .done ∧ c.viq = [] ∧ c.vmq = [] ∧ c.copies = [] ∧ c.mats = [] ∧ c.defer = [] ∧ c.q4 = [] ∧ c.q5 = [] ∧
        c.q6 = [] ∧ c.q7 = [] ∧ c.acc = 0 ∧ c.lanes = 0 ∧ (∀ q : Fin 4, c.vq[q] = [] ∧ c.streams[q] = none) ∧
        (∀ x : TSlot, c.tiles[x].st = .empty))

/-- R106, R343, R344: a record goes to the slot at the tail, the marks of its sectors go, and the tail moves on round the queue; a
full queue drops the record and counts it, up to 0xFFFF; one whose frame is closed waits with its address. Model: That a
record is written in the step of its fault is the model's choice (log 10). -/
def Obligations.FaultRecords : Prop :=
  ∀ (s : State) (v : BitVec 6) (d : Vd) (r : Nat), findVd s.part v = some d → recsOf s.part v false = [] →
    let slot := d.fq.tail.toNat % d.faultn
    let va := d.faultq + BitVec.ofNat 64 (64 * slot)
    ((d.fq.tail.toNat + 1) % d.faultn = d.fq.head.toNat % d.faultn →
      (writeRecord s v r).2 = 0 ∧ (writeRecord s v r).1.mem = s.mem ∧ ∃ d', findVd (writeRecord s v r).1.part v = some d' ∧
        d'.fq.tail = d.fq.tail ∧ d'.fq.head = d.fq.head ∧ d'.fq.drop.toNat = min 0xFFFF (d.fq.drop.toNat + 1)) ∧
    ((d.fq.tail.toNat + 1) % d.faultn ≠ d.fq.head.toNat % d.faultn → vdCheck s d .store va = .stall →
      writeRecord s v r = ({ s with part := { s.part with recs := s.part.recs ++ [⟨v, false, r⟩] } }, va)) ∧
    (∀ x, (d.fq.tail.toNat + 1) % d.faultn ≠ d.fq.head.toNat % d.faultn → Quiet s → 0 < d.faultn → d.faultn ≤ 2 ^ 16 →
      vdCheck s d .store va = .ok x → aliasDirty s (lineOf x.pa) = false → activeFor s (lineOf x.pa) = none →
      (writeRecord s v r).2 = va ∧ (∀ k, (writeRecord s v r).1.loc.read k = s.loc.read k) ∧
      (∀ q, q ∈ (writeRecord s v r).1.poison → q ∈ s.poison) ∧
      Stored s.mem (writeRecord s v r).1.mem (memKey s.part x.pa) 64 r ∧
      ∃ d', findVd (writeRecord s v r).1.part v = some d' ∧ d'.fq.drop = d.fq.drop ∧ d'.fq.head = d.fq.head ∧
        d'.fq.tail.toNat = (d.fq.tail.toNat + 1) % d.faultn)

/-! ## System registers, banks, handover -/

/-- R10, R143, R164: registers read and written by number, in each view. -/
def Obligations.SystemRegisters : Prop :=
  ∀ (s : State) (d : SReg),
    Completes (.sysrd d 0x000) s (fun t => Wrote s t d (BitVec.ofNat 64 s.core.vl) 4) ∧
    Completes (.sysrd d 0x001) s (fun t => Wrote s t d 1024 4) ∧
    Completes (.sysrd d 0x006) s (fun t => Wrote s t d s.core.stripBase 4) ∧
    Completes (.sysrd d 0x007) s (fun t => Wrote s t d s.core.stripNext 4) ∧
    Completes (.sysrd d 0x008) s (fun t => Wrote s t d s.core.seed 4) ∧
    Completes (.sysrd d 0x00C) s (fun t => Wrote s t d (s.core.cgid.zeroExtend 64) 4) ∧
    Completes (.sysrd d 0x012) s (fun t => Wrote s t d s.core.resync 4) ∧
    Completes (.sysrd d 0x020) s (fun t => Wrote s t d (getCl s s.cl).cbmode 4) ∧
    Completes (.sysrd d 0x018) s (fun t => Wrote s t d (if s.core.view = .u then 0 else advstImage s.core.adv) 4) ∧
    (s.core.view ≠ .u → Completes (.sysrd d 0x100) s (fun t => Wrote s t d (pghoImage s.coh.hand) 4)) ∧
    Completes (.syswr d 0x008) s (fun t =>
      t = { s with core := { s.core with seed := s.sreg d, pc := s.core.pc + 4, wait := .none } }) ∧
    Completes (.syswr d 0x002) s (fun t => t = { s with core := { s.core with
      rm := if ((s.sreg d).extractLsb' 0 3).toNat < 6 then (s.sreg d).extractLsb' 0 3 else s.core.rm
      pc := s.core.pc + 4, wait := .none } }) ∧
    (s.core.view ≠ .u → Completes (.syswr d 0x007) s (fun t =>
      t = { s with core := { s.core with stripNext := s.sreg d, pc := s.core.pc + 4, wait := .none } })) ∧
    (s.core.view ≠ .u → ∀ i : Fin 16, Completes (.syswr d (0x040 + BitVec.ofNat 12 i.val)) s (fun t =>
      t.core.pmask.extractLsb' (64 * i.val) 64 = s.sreg d ∧
      (∀ j : Fin 16, j ≠ i → t.core.pmask.extractLsb' (64 * j.val) 64 = s.core.pmask.extractLsb' (64 * j.val) 64) ∧
      t = { s with core := { s.core with pmask := t.core.pmask, pc := s.core.pc + 4, wait := .none } })) ∧
    (s.core.view = .u → ∀ r ∈ ([0x000, 0x003, 0x006, 0x007, 0x00E, 0x010, 0x011, 0x012, 0x014, 0x015, 0x018, 0x019, 0x030, 0x040] : List (BitVec 12)),
      Completes (.syswr d r) s (fun t => Went s t (s.core.pc + 4)))

/-- R20, R73, R74: a write of CBMODE is checked as a whole, then bank by bank, so that four banks stay in cache mode; changes are
done in ascending order, and one that is done zeroes the bank. Model: Which events there are and that each is one step is the
model's choice (log 10). -/
def Obligations.BankModes : Prop :=
  ∀ (s : State),
    (∀ v : Word, s.core.view = .s → (getCl s s.cl).busy = 0 →
      ((List.range 32).filter (fun b => modeOf v b == 0)).length < 4 →
      Completes (.cbmodeWrite v) s (fun t =>
        (∀ b : Fin 32, (getCl t t.cl).refused.getLsbD b.val = (modeOf v b.val != modeOf (getCl s s.cl).cbmode b.val)) ∧
        (getCl t t.cl).cbmode = (getCl s s.cl).cbmode ∧ (getCl t t.cl).busy = 0)) ∧
    (∀ v : Word, s.core.view = .s → (getCl s s.cl).busy = 0 → (∀ b : Fin 32, (getCl s s.cl).fifo[b] = []) →
      (∀ b, fifoBlocked s s.cl b = false) → 4 ≤ ((List.range 32).filter (fun b => modeOf v b == 0)).length →
      Completes (.cbmodeWrite v) s (fun t =>
        (∀ b : Fin 32, (getCl t t.cl).busy.getLsbD b.val = true ↔
          modeOf v b.val ≠ modeOf (getCl s s.cl).cbmode b.val ∧ modeOf v b.val ≠ 3 ∧
          (modeOf (getCl s s.cl).cbmode b.val ≠ 0 ∨ 4 ≤
            ((List.range 32).filter (fun i => (if modeOf v i = 3 then modeOf (getCl s s.cl).cbmode i else modeOf v i) == 0)).length +
            ((List.range b.val).filter (fun i =>
              modeOf (getCl s s.cl).cbmode i == 0 && modeOf v i != 0 && modeOf v i != 3)).length)) ∧
        (∀ b : Fin 32, (getCl t t.cl).refused.getLsbD b.val =
          (modeOf v b.val != modeOf (getCl s s.cl).cbmode b.val && !(getCl t t.cl).busy.getLsbD b.val)) ∧
        (getCl t t.cl).cbmode = (getCl s s.cl).cbmode)) ∧
    (∀ (c : Fin 128) (b i : Fin 32), i < b → (getCl s c).busy.getLsbD i.val = true → exec (.bankModeChangeDone c.val b) s = .next s) ∧
    (∀ (c : Fin 128) (b : Fin 32), (getCl s c).busy.getLsbD b.val = true → (∀ i, i < b → (getCl s c).busy.getLsbD i.val = false) →
      modeOf (getCl s c).cbmode b.val ≠ 0 → Completes (.bankModeChangeDone c.val b) s (fun t =>
        (getCl t c).busy.getLsbD b.val = false ∧ modeOf (getCl t c).cbmode b.val = modeOf (getCl s c).asked b.val ∧
        (getCl t c).fifo[b] = [] ∧
        (∀ k, t.loc.read k = if scratchKey c.val (b.val * 0x20000) ≤ k ∧ k < scratchKey c.val (b.val * 0x20000) + 0x20000 then 0
          else s.loc.read k) ∧ t.mem = s.mem ∧ t.core = s.core ∧ t.rest = s.rest))

/-- R105, R106, R118, R380: writes of PGHO, the pass of a handover, its timeouts, and the stop written to ADVST. Model: Which
events there are and that each is one step is the model's choice (log 10). -/
def Obligations.HandoverAndStop : Prop :=
  ∀ (s : State),
    (∀ v, s.coh.hand.status = 1 → exec (.pghoWrite v) s = .next s) ∧
    (∀ v : Word, s.coh.hand.status ≠ 1 → Completes (.pghoWrite v) s (fun t =>
      (Quiet s → t = { s with coh := { s.coh with hand := t.coh.hand } }) ∧ t.coh.hand.frame = v.extractLsb' 24 36 ∧
      t.coh.hand.party = v.extractLsb' 12 4 ∧ t.coh.hand.target = v.extractLsb' 8 2 ∧
      (v.extractLsb' 8 2 = 3 ∨ window s.part ((v.extractLsb' 24 36).toNat * 2 ^ 16) = .absent → t.coh.hand.status = 3) ∧
      (v.extractLsb' 8 2 ≠ 3 → window s.part ((v.extractLsb' 24 36).toNat * 2 ^ 16) ≠ .absent → s.coh.pages.length < 65536 →
        t.coh.hand.status = if pageIs s.coh (v.extractLsb' 24 36).toNat (v.extractLsb' 8 2) (v.extractLsb' 12 4) then 2 else 1))) ∧
    (s.coh.hand.status = 1 → Quiet s → s.coh.outside = [] → s.part.recs = [] → Completes .handoverPass s (fun t =>
      t.coh.hand = { s.coh.hand with status := 2 } ∧ t.mem = s.mem ∧ t.coh.outside = [] ∧
      pageState t.coh (s.coh.hand.frame.toNat * 2 ^ 16) = pageTarget s.coh.hand.target ∧
      (∀ f, f ≠ s.coh.hand.frame.toNat → pageState t.coh (f * 2 ^ 16) = pageState s.coh (f * 2 ^ 16)) ∧
      (∀ c, ∀ l ∈ (getCl t c).lines, l.line / 512 ≠ s.coh.hand.frame.toNat))) ∧
    (s.coh.hand.status = 1 → 20000 ≤ s.coh.hand.ns → s.coh.hand.ns < 1000000 → ∀ lost,
      exec (.handoverTimeout false lost) s = .next s) ∧
    (s.coh.hand.status = 1 → 1000000 ≤ s.coh.hand.ns → Quiet s → s.coh.outside = [] → s.part.recs = [] → Completes (.handoverTimeout true []) s (fun t =>
      t.coh.hand = { s.coh.hand with status := 3 } ∧ t.mem = s.mem ∧ t.poison = s.poison ∧ t.part.fwLog ≠ [] ∧
      frameClosed t.coh (s.coh.hand.frame.toNat * 2 ^ 16) = false)) ∧
    (s.core.view ≠ .u → Completes .advstStopWrite s (fun t => t = { s with core := { s.core with
      adv := { s.core.adv with st := .stopped, cause := 5, barred := true } } }))

/-- R166, R283, R284, R286: reference counts of frames saturate at 0 and 0xFFFF, and a frame without a count answers all ones; an
invalidation leaves no cached translation of the page, or of the virtual device, and no table pointer that leads to one, in
any core, cluster or walker, keeps those of every other virtual device, and changes nothing else. -/
def Obligations.PagesAndTranslations : Prop :=
  (∀ (s : State) (d a : SReg), s.core.view ≠ .u →
      (∀ f, countedFrame s.part (s.sreg a) = some f →
        Completes (.pgrefInc d a) s (fun t => ∃ u, Wrote s u d (BitVec.ofNat 64 (min 0xFFFF ((frameCount s.part f).toNat + 1))) 4 ∧
          t = { u with part := t.part } ∧ (frameCount t.part f).toNat = min 0xFFFF ((frameCount s.part f).toNat + 1) ∧
          ∀ g, g ≠ f → frameCount t.part g = frameCount s.part g) ∧
        Completes (.pgrefDec d a) s (fun t => ∃ u, Wrote s u d (BitVec.ofNat 64 ((frameCount s.part f).toNat - 1)) 4 ∧
          t = { u with part := t.part } ∧ (frameCount t.part f).toNat = (frameCount s.part f).toNat - 1 ∧
          ∀ g, g ≠ f → frameCount t.part g = frameCount s.part g) ∧
        Completes (.pgrefRd d a) s (fun t => t.sreg d = (if d = 0 then 0 else (frameCount s.part f).zeroExtend 64) ∧
          (∀ r, r ≠ d → t.sreg r = s.sreg r) ∧ ∀ g, frameCount t.part g = frameCount s.part g)) ∧
      (countedFrame s.part (s.sreg a) = none →
        Completes (.pgrefInc d a) s (fun t => Wrote s t d (BitVec.allOnes 64) 4) ∧
        Completes (.pgrefDec d a) s (fun t => Wrote s t d (BitVec.allOnes 64) 4) ∧
        Completes (.pgrefRd d a) s (fun t => Wrote s t d (BitVec.allOnes 64) 4))) ∧
  (∀ (s : State), s.core.view ≠ .u → Quiet s →
      (∀ a, Completes (.tlbinvPage a) s (fun t => Unmapped s t ∧
        (∀ c ∈ t.cores, tlbHit c.tlb s.core.vdid (s.sreg a).toNat = none) ∧
        (∀ c, tlbHit (getCl t c).tlb s.core.vdid (s.sreg a).toNat = none ∧
          ptrHit (getCl t c).ptrs s.core.vdid (s.sreg a).toNat = none) ∧
        (∀ d : Fin 4, ptrHit (t.part.dies[d]).ptrs s.core.vdid (s.sreg a).toNat = none))) ∧
      Completes .tlbinvAll s (fun t => Unmapped s t ∧
        (∀ c ∈ t.cores, ∀ x ∈ c.tlb, x.vdid ≠ s.core.vdid) ∧
        (∀ c, (∀ x ∈ (getCl t c).tlb, x.vdid ≠ s.core.vdid) ∧ ∀ x ∈ (getCl t c).ptrs, x.vdid ≠ s.core.vdid) ∧
        (∀ d : Fin 4, ∀ x ∈ (t.part.dies[d]).ptrs, x.vdid ≠ s.core.vdid)))

/-- R161, R163: a launch of an acceptable record, at an aligned address that can be read, answers 0x1_0000_0000 + CGID and queues
the group at its priority, a full queue answers 0; halt ends the virtual core once its earlier instructions are done. Model:
That the command processor reads the record within the launch is the model's choice (log 10). -/
def Obligations.GroupsBeginAndEnd : Prop :=
  (∀ (d a : SReg) (s : State) (raw : Nat) (v : Vd), Quiet s → s.core.vmq = [] → (s.sreg a).extractLsb' 48 16 = 0 →
      alignedTo (s.sreg a) 64 = true → readPieces s (s.check .load) s.cl 4 (s.sreg a) = .ok raw → s.vd = some v →
      NoAlias s →
      (64 ≤ (v.queues[(parseRecord raw).prio]).length → Completes (.launch d a) s (fun t =>
        CoresKept s t (s.core.after d 0 4) ∧ MemoryKept s t ∧ ClusterRegsKept s t ∧ t.part.vds = s.part.vds)) ∧
      ((v.queues[(parseRecord raw).prio]).length < 64 → recordOk raw = true → canPlace v (parseRecord raw) = true →
        (parseRecord raw).fin = 0 → (∀ x ∈ (parseRecord raw).deps, x.1 = 0) → countLive s.part v v.count = false →
        Completes (.launch d a) s (fun t =>
          t.sreg d = (if d = 0 then 0 else 0x100000000 + (v.vdid ++ BitVec.ofNat 26 v.count).zeroExtend 64) ∧
          CoresKept s t { s.core with s := t.core.s, pc := s.core.pc + 4 } ∧ MemoryKept s t ∧ ClusterRegsKept s t ∧
          (∀ r, r ≠ d → t.sreg r = s.sreg r) ∧
          ∃ v' l, findVd t.part s.core.vdid = some v' ∧ v'.queues[(parseRecord raw).prio] = v.queues[(parseRecord raw).prio] ++ [l] ∧
            l.cgid = v.vdid ++ BitVec.ofNat 26 v.count ∧ l.lr = parseRecord raw)) ∧
      ((v.queues[(parseRecord raw).prio]).length < 64 → recordOk raw = false → (parseRecord raw).fin = 0 →
        Completes (.launch d a) s (fun t => t.sreg d = (if d = 0 then 0 else 1) ∧ (∀ r, r ≠ d → t.sreg r = s.sreg r) ∧
          t.core.pc = s.core.pc + 4 ∧ ∃ v', findVd t.part s.core.vdid = some v' ∧ v'.queues = v.queues))) ∧
  (∀ s : State,
      (haltReady s.core = true → Completes .halt s (fun t =>
        t.core.run ≠ .running ∧ t.core.q4 = [] ∧ t.core.q5 = [] ∧ t.core.q6 = [] ∧ t.core.q7 = [] ∧ t.core.defer = [] ∧
        (∀ q : Fin 4, t.core.vq[q] = []) ∧ (∀ x : TSlot, t.core.tiles[x].st = .empty) ∧ t.core.acc = 0 ∧ t.core.lanes = 0 ∧
        t.core.adv.st = .off ∧ t.core.s = s.core.s ∧ t.core.v = s.core.v)) ∧
      (haltReady s.core = false → exec .halt s = .next { s with core := { s.core with wait := .halt } }))

/-! ## Class 3 -/

/-- R52, R174, R177: integers and bits, element by element: the exact result, wrapped, or saturated under .sat; shifts by y mod w.
Model: That an instruction of the EP completes at its issue when nothing is queued before it is the model's choice (log 2). -/
def Obligations.VectorIntegers : Prop :=
  (VBinary .vadd ElemTy.isI (fun f _ _ x y => elemFit f.et f.sat (elemInt f.et x + elemInt f.et y)) ∧
    VBinary .vsub ElemTy.isI (fun f _ _ x y => elemFit f.et f.sat (elemInt f.et x - elemInt f.et y)) ∧
    VBinary .vmul ElemTy.isI (fun f _ _ x y => elemFit f.et f.sat (elemInt f.et x * elemInt f.et y)) ∧
    VBinary .vmulh ElemTy.isI (fun f _ _ x y => elemFit f.et false (elemInt f.et x * elemInt f.et y / 2 ^ f.et.regW)) ∧
    VBinary .vdiv ElemTy.isI (fun f _ _ x y => elemFit f.et f.sat (elemQuot f.et (elemInt f.et x) (elemInt f.et y))) ∧
    VBinary .vmin ElemTy.isI (fun f _ _ x y => if elemInt f.et x ≤ elemInt f.et y then x else y) ∧
    VBinary .vmax ElemTy.isI (fun f _ _ x y => if elemInt f.et x ≤ elemInt f.et y then y else x) ∧
    VUnary .vabs ElemTy.isI (fun f _ _ x => elemFit f.et f.sat (elemInt f.et x).natAbs) ∧
    VUnary .vneg ElemTy.isI (fun f _ _ x => elemFit f.et f.sat (-elemInt f.et x))) ∧
  (VBinary .vand ElemTy.isI (fun _ _ _ x y => x &&& y) ∧ VBinary .vor ElemTy.isI (fun _ _ _ x y => x ||| y) ∧
    VBinary .vxor ElemTy.isI (fun _ _ _ x y => x ^^^ y) ∧
    VUnary .vnot ElemTy.isI (fun f _ _ x => (~~~(BitVec.ofNat f.et.regW x)).toNat) ∧
    VBinary .vshl ElemTy.isI (fun f _ _ x y => elemFit f.et f.sat (elemInt f.et x * 2 ^ (y % f.et.regW))) ∧
    VBinary .vshr ElemTy.isI (fun f _ _ x y => (BitVec.ofNat f.et.regW x >>> (y % f.et.regW)).toNat) ∧
    VBinary .vsra ElemTy.isI (fun f _ _ x y => ((BitVec.ofNat f.et.regW x).sshiftRight (y % f.et.regW)).toNat) ∧
    VUnary .vclz ElemTy.isI (fun f _ _ x => ((List.range f.et.regW).takeWhile (fun i => !(BitVec.ofNat f.et.regW x).getMsbD i)).length) ∧
    VUnary .vpopc ElemTy.isI (fun f _ _ x => ((List.range f.et.regW).filter (fun i => x.testBit i)).length))

/-- R171, R174 to R176: each floating or tapered result is one exact value, rounded once, the fused operations among them, with
their companions' scales where word 2 says so; fused integers wrap or saturate. Model: That an instruction of the EP completes
at its issue when nothing is queued before it is the model's choice (log 2). The function exp2 and log2 round through an
interval of the model's own precision (log 12). -/
def Obligations.VectorRounding : Prop :=
  (VBinary .vadd ElemTy.isFT (fun f c e x y => rounded f c e f.sat (Machine.Num.add (effRm f.rm c == .rdn) (decElem f.et x) (decElem f.et y))) ∧
    VBinary .vsub ElemTy.isFT (fun f c e x y => rounded f c e f.sat (Machine.Num.add (effRm f.rm c == .rdn) (decElem f.et x) (decElem f.et y).neg)) ∧
    VBinary .vmul ElemTy.isFT (fun f c e x y => rounded f c e f.sat (Machine.Num.mul (decElem f.et x) (decElem f.et y))) ∧
    VBinary .vdiv ElemTy.isFT (fun f c e x y => rounded f c e f.sat (Machine.Num.div (decElem f.et x) (decElem f.et y))) ∧
    VBinary .vmin ElemTy.isFT (fun f c e x y => rounded f c e false (Machine.Num.min (decElem f.et x) (decElem f.et y))) ∧
    VBinary .vmax ElemTy.isFT (fun f c e x y => rounded f c e false (Machine.Num.max (decElem f.et x) (decElem f.et y))) ∧
    VUnary .vsqrt ElemTy.isFT (fun f c e x => rounded f c e false (Machine.Num.sqrt (decElem f.et x))) ∧
    VUnary .vrcp ElemTy.isFT (fun f c e x => rounded f c e false (Machine.Num.rcp (decElem f.et x))) ∧
    VUnary .vrsqrt ElemTy.isFT (fun f c e x => rounded f c e false (Machine.Num.rsqrt (decElem f.et x))) ∧
    VUnary .vexp2 ElemTy.isFT (fun f c e x => rounded f c e false (Machine.Num.exp2 (decElem f.et x))) ∧
    VUnary .vlog2 ElemTy.isFT (fun f c e x => rounded f c e false (Machine.Num.log2 (decElem f.et x))) ∧
    VUnary .vabs ElemTy.isFT (fun f c e x => rounded f c e false (decElem f.et x).abs) ∧
    VUnary .vneg ElemTy.isFT (fun f c e x => rounded f c e false (decElem f.et x).neg)) ∧
  (∀ (f : VF) (d : VReg) (a : VSrc) (b : VB) (z : VSrc) (w : BitVec 32) (s : State) (c : Core) (l : List SVal),
      EpReady s [.src a, b, .src z] ((if w.getLsbD 5 then [fmaCa w] else []) ++ (if w.getLsbD 13 then [fmaCb w] else []))
        [f.et.regW] (f.msk != 0) c l →
      let n := vfLen f b.isLit
      let cap := capture s 0 0 n
      let p (e : Nat) : Int := elemInt f.et (sElem f.et (getS l 0) e) * elemInt f.et (sElem f.et (getS l 1) e)
      let q (e : Nat) : Int := elemInt f.et (sElem f.et (getS l 2) e)
      let pf (e : Nat) : Machine.Num := fusedProduct (w.getLsbD 5) (w.getLsbD 13) (scaleAt (s.core.vreg (fmaCa w)) e)
        (scaleAt (s.core.vreg (fmaCb w)) e) (decElem f.et (sElem f.et (getS l 0) e)) (decElem f.et (sElem f.et (getS l 1) e))
      let qf (e : Nat) : Machine.Num := decElem f.et (sElem f.et (getS l 2) e)
      let down := effRm f.rm cap == .rdn
      (f.et.isI = true →
        VecEffect (.vfma f d a b z w) s f d n c (fun e => some (elemFit f.et f.sat (p e + q e))) ∧
        VecEffect (.vfms f d a b z w) s f d n c (fun e => some (elemFit f.et f.sat (p e - q e))) ∧
        VecEffect (.vfnma f d a b z w) s f d n c (fun e => some (elemFit f.et f.sat (q e - p e)))) ∧
      (f.et.isFT = true →
        VecEffect (.vfma f d a b z w) s f d n c (fun e => some (rounded f cap e f.sat (Machine.Num.add down (pf e) (qf e)))) ∧
        VecEffect (.vfms f d a b z w) s f d n c (fun e => some (rounded f cap e f.sat (Machine.Num.add down (pf e) (qf e).neg))) ∧
        VecEffect (.vfnma f d a b z w) s f d n c (fun e => some (rounded f cap e f.sat (Machine.Num.add down (qf e) (pf e).neg)))))

/-- R178 to R180: comparisons and classes write mask bits; selection by a mask. Model: That an instruction of the EP completes at
its issue when nothing is queued before it is the model's choice (log 2). -/
def Obligations.VectorCompare : Prop :=
  ∀ (f : VF) (a : VSrc) (b : VB) (s : State) (c : Core) (l : List SVal),
    let x (e : Nat) : Nat := sElem f.et (getS l 0) e
    let y (e : Nat) : Nat := sElem f.et (getS l 1) e
    (EpReady s [.src a, b] [] [f.et.regW] true c l → ∀ (md mc : MReg) (d : VReg) (cond : BitVec 4),
      let rel := (cond.extractLsb' 0 3).toNat
      (f.et.isI = true → MaskEffect (.vcmp f md a b cond) s f md (vfLen f b.isLit) c (fun e =>
        relHolds rel (elemInt f.et (x e) < elemInt f.et (y e)) (elemInt f.et (x e) = elemInt f.et (y e)))) ∧
      (f.et.isFT = true → MaskEffect (.vcmp f md a b cond) s f md (vfLen f b.isLit) c (fun e =>
        if decElem f.et (x e) = .nan ∨ decElem f.et (y e) = .nan then cond.getLsbD 3
        else relHolds rel (Machine.Num.cmp (decElem f.et (x e)) (decElem f.et (y e)) == .lt)
          (Machine.Num.cmp (decElem f.et (x e)) (decElem f.et (y e)) == .eq))) ∧
      VecEffect (.vsel f d a b mc) s f d (vfLen f b.isLit) c (fun e =>
        some (if (s.core.m[mc]).getLsbD e then x e else y e))) ∧
    (EpReady s [.src a] [] [f.et.regW] true c l → ∀ (md : MReg) (set : BitVec 9),
      MaskEffect (.vclass f md a set) s f md (vfLen f false) c (fun e => set.getLsbD (classBit f.et (x e)))) ∧
    classBit .f32 0xFF800000 = 0 ∧ classBit .f32 0xBF800000 = 1 ∧ classBit .f32 0x80000001 = 2 ∧ classBit .f32 0x80000000 = 3 ∧
    classBit .f32 0 = 4 ∧ classBit .f32 1 = 5 ∧ classBit .f32 0x3F800000 = 6 ∧ classBit .f32 0x7F800000 = 7 ∧
    classBit .f32 0x7FC00000 = 8

/-- R63, R181 to R183: conversions, scaling, and the packing of blocks that are all zero or not all finite; a scaled value that
overflows gives an infinity under every rm, and the largest value under .sat. Model: That an instruction of the EP completes
at its issue when nothing is queued before it is the model's choice (log 2). -/
def Obligations.VectorConvert : Prop :=
  (∀ (f : VF) (d : VReg) (a : VSrc) (cc : VReg) (src : ElemTy) (s : State) (c : Core) (l : List SVal),
    EpReady s [.src a] [] [f.et.regW, src.regW] (f.msk != 0) c l →
    (f.et.isI = true → src.isI = true → VecEffect (.vcvt f d a cc src false) s f d (vfLen f false) c (fun e =>
      some (elemFit f.et f.sat (elemInt src (sElem src (getS l 0) e))))) ∧
    (src.isFT = true → VecEffect (.vcvt f d a cc src false) s f d (vfLen f false) c (fun e =>
      some (rounded f (capture s 0 0 (vfLen f false)) e f.sat (decElem src (sElem src (getS l 0) e)))))) ∧
  (∀ (f : VF) (d : VReg) (a : VSrc) (cc : VReg) (src : ElemTy) (s : State) (c : Core) (l : List SVal),
    EpReady s [.src a] [cc] [f.et.regW, src.regW] (f.msk != 0) c l →
    VecEffect (.vcvt f d a cc src true) s f d (vfLen f false) c (fun e =>
      some (scaled f (capture s 0 0 (vfLen f false)) e (if scaleAt (s.core.vreg cc) e = -128 then .nan
        else (decElem src (sElem src (getS l 0) e)).scale (scaleAt (s.core.vreg cc) e))))) ∧
  (∀ (f : VF) (d : VReg) (a : VSrc) (b : VB) (s : State) (c : Core) (l : List SVal),
    EpReady s [.src a, b] [] [f.et.regW] (f.msk != 0) c l →
    VecEffect (.vscale f d a b false) s f d (vfLen f b.isLit) c (fun e =>
      some (scaled f (capture s 0 0 (vfLen f b.isLit)) e
        ((decElem f.et (sElem f.et (getS l 0) e)).scale (scaleBy f false (getS l 1) e))))) ∧
  (∀ (f : VF) (d : VReg) (a : VSrc) (cc : VReg) (s : State) (c : Core) (l : List SVal) (all : Bool),
    EpReady s [.src a] [] [f.et.regW, 32] (f.msk != 0) c l → s.core.vl ≠ 0 → d ≠ cc →
    (∀ e ∈ activeList s f.msk, let x := decElem .f32 (sElem .f32 (getS l 0) e); if all then x.isZero = true else x.isFinite = false) →
    Completes (.vpack f d a cc) s (fun t =>
      (∀ e, e < 32768 / f.et.regW → elemGet f.et.regW e t.core.v[d] =
        if e ∈ activeList s f.msk then 0 else elemGet f.et.regW e (s.core.vdest d)) ∧
      (∀ j, j < 4096 → byteGet j t.core.v[cc] =
        if ∃ e ∈ activeList s f.msk, e / 32 = j then (if all then 0x81 else 0x80) else byteGet j (s.core.vdest cc)) ∧
      (∀ r, r ≠ d → r ≠ cc → t.core.v[r] = s.core.v[r]) ∧
      EpDone s t { c with v := t.core.v, poisonV := t.core.poisonV } (vfLen f false))) ∧
  (∀ rm ∈ ([.rne, .rtz, .rdn, .rup] : List Rm),
    encScaled .f32 rm false 0 (.fin false 1 128) = 0x7F800000 ∧ encScaled .f32 rm true 0 (.fin false 1 128) = 0x7F7FFFFF ∧
    encScaled .f32 rm false 0 (.fin true 1 128) = 0xFF800000 ∧ encScaled .f32 rm true 0 (.fin true 1 128) = 0xFF7FFFFF)

/-- R67, R184: reductions of integers: the sum of the active elements modulo 2^w, their greatest and their least; a tree of four
floating leaves. Model: That an instruction of the EP completes at its issue when nothing is queued before it is the model's
choice (log 2). -/
def Obligations.VectorReductions : Prop :=
  ∀ (f : VF) (a : VSrc) (s : State) (c : Core) (l : List SVal),
    EpReady s [.src a] [] [f.et.regW] (f.msk != 0) c l → s.core.vl ≠ 0 →
    let x (e : Nat) : Nat := sElem f.et (getS l 0) e
    let into (i : Instr) (r : VReg) (p : Nat → Prop) : Prop := Completes i s (fun t =>
      p (elemGet f.et.regW 0 t.core.v[r]) ∧ t.core.isPoisoned r = false ∧
      (∀ e, 0 < e → e < 32768 / f.et.regW → elemGet f.et.regW e t.core.v[r] = elemGet f.et.regW e (s.core.vdest r)) ∧
      (∀ r', r' ≠ r → t.core.v[r'] = s.core.v[r']) ∧
      EpDone s t { c with v := t.core.v, poisonV := t.core.poisonV } (vfLen f false))
    (f.et.isI = true → f.sat = false → ∀ r : VReg,
      into (.vredsum f (.v r) a false) r (fun y =>
        y = elemFit f.et false (((activeList s f.msk).map (fun e => elemInt f.et (x e))).sum)) ∧
      (activeList s f.msk ≠ [] → into (.vredmax f (.v r) a false) r (fun y => (∃ e ∈ activeList s f.msk, y = x e) ∧
        ∀ e ∈ activeList s f.msk, elemInt f.et (x e) ≤ elemInt f.et y)) ∧
      (activeList s f.msk ≠ [] → into (.vredmin f (.v r) a false) r (fun y => (∃ e ∈ activeList s f.msk, y = x e) ∧
        ∀ e ∈ activeList s f.msk, elemInt f.et y ≤ elemInt f.et (x e)))) ∧
    (f.et = .n32 → f.sat = false → ∀ k : KReg, KEffect (.vredsum f (.k k) a false) s f k c
      (BitVec.ofNat 64 ((((activeList s f.msk).map x).sum) % 2 ^ 32))) ∧
    (f.et.isI = true → f.sat = false → s.core.vl ≤ 512 → ∀ k : KReg, KEffect (.vredsum f (.k k) a true) s f k c
      (BitVec.ofInt 64 (((activeList s f.msk).map (fun e => elemInt f.et (x e))).sum))) ∧
    (f.et = .f32 → f.rm = .rne → f.sat = false → f.msk = 0 → s.core.vl = 4 → ∀ r : VReg,
      let leaf (e : Nat) : Nat := encElem .f32 .rne false 0 (decElem .f32 (x e))
      let node (y z : Nat) : Nat := encElem .f32 .rne false 0 (Machine.Num.add false (decElem .f32 y) (decElem .f32 z))
      into (.vredsum f (.v r) a false) r (fun y => y = node (node (leaf 0) (leaf 1)) (node (leaf 2) (leaf 3))))

/-- R185 to R187: permutes, slides, broadcasts, moves, compression, expansion, prefix counts and index runs. Model: That an
instruction of the EP completes at its issue when nothing is queued before it is the model's choice (log 2). -/
def Obligations.VectorPermutes : Prop :=
  ∀ (f : VF) (d : VReg) (a : VSrc) (b : VB) (s : State) (c : Core) (l : List SVal),
    let x (e : Nat) : Nat := sElem f.et (getS l 0) e
    let n := vfLen f b.isLit
    (EpReady s [.src a, b] [] [f.et.regW] (f.msk != 0) c l →
      VecEffect (.vperm f d a b) s f d n c (fun e => some (elemOrZero s f.et (getS l 0) (sRaw f.et (getS l 1) e))) ∧
      VecEffect (.vbcast f d a b) s f d n c (fun _ => some (elemOrZero s f.et (getS l 0) (sScalar (getS l 1)))) ∧
      VecEffect (.vslidedown f d a b) s f d n c (fun e => some (elemOrZero s f.et (getS l 0) (e + sScalar (getS l 1)))) ∧
      VecEffect (.vslideup f d a b) s f d n c (fun e =>
        if e < sScalar (getS l 1) then none else some (x (e - sScalar (getS l 1))))) ∧
    (EpReady s [.src a] [] [f.et.regW] (f.msk != 0) c l →
      VecEffect (.vmv f (.v d) a 0) s f d (vfLen f false) c (fun e => some (x e))) ∧
    (EpReady s [.src a] [] [] false c l → ∀ (k : KReg) (v : Word) (i : BitVec 32), getS l 0 = .scal v →
      Completes (.vmv f (.k k) a i) s (fun t => EpDone s t (c.setK k v) (vfLen f false))) ∧
    (EpReady s [.src a] [] [] false c l → ∀ (k : KReg) (i : BitVec 32), (∀ v, getS l 0 ≠ .scal v) →
      Completes (.vmv f (.k k) a i) s (fun t => EpDone s t
        (c.setK k (if 32768 / f.et.regW ≤ i.toNat then 0 else toK f.et (sElem f.et (getS l 0) i.toNat))) (vfLen f false))) ∧
    (EpReady s [.src a] [] [f.et.regW] true c l → f.msk = 0 → ∀ mc : MReg,
      VecEffect (.vexpand f d a mc) s f d (vfLen f false) c (fun e =>
        if (s.core.m[mc]).getLsbD e then some (x (onesUnder s.core.m[mc] e)) else none) ∧
      Completes (.vcompress f d a mc) s (fun t =>
        (s.core.vl ≠ 0 → (∀ e, e < s.core.vl → (s.core.m[mc]).getLsbD e = true →
            elemGet f.et.regW (onesUnder s.core.m[mc] e) t.core.v[d] = x e) ∧
          (∀ j, onesUnder s.core.m[mc] s.core.vl ≤ j → j < 32768 / f.et.regW →
            elemGet f.et.regW j t.core.v[d] = elemGet f.et.regW j (s.core.vdest d))) ∧
        (∀ r, r ≠ d → t.core.v[r] = s.core.v[r]) ∧
        EpDone s t { c with v := t.core.v, poisonV := t.core.poisonV } (vfLen f false))) ∧
    (EpReady s [] [] [f.et.regW] true c l → ∀ ma : MReg,
      VecEffect (.viota f d ma) s f d (vfLen f false) c (fun e => some (onesUnder s.core.m[ma] e))) ∧
    (EpReady s [] [] [f.et.regW] (f.msk != 0) c l →
      VecEffect (.viotaIdx f d) s f d (vfLen f false) c (fun e => some ((s.core.stripBase.toNat + e) % 2 ^ f.et.regW))) ∧
    (∀ bi cc cd : VReg, EpReady s [.src a] [bi, cc] [f.et.regW] false c l → s.core.vl ≠ 0 → d ≠ cd →
      Completes (.vpermb f d a bi cc cd) s (fun t =>
        (∀ e, e < s.core.vl → elemGet f.et.regW e t.core.v[d] =
          if byteGet (e / 32) (s.core.vreg bi) < (s.core.vl + 31) / 32 then
            elemOrZero s f.et (getS l 0) (32 * byteGet (e / 32) (s.core.vreg bi) + e % 32)
          else 0) ∧
        (∀ j, j < (s.core.vl + 31) / 32 → byteGet j t.core.v[cd] =
          if byteGet j (s.core.vreg bi) < (s.core.vl + 31) / 32 then byteGet (byteGet j (s.core.vreg bi)) (s.core.vreg cc) else 0x81) ∧
        (∀ r, r ≠ d → r ≠ cd → t.core.v[r] = s.core.v[r]) ∧
        EpDone s t { c with v := t.core.v, poisonV := t.core.poisonV } (vfLen f false)))

/-- R188: the mask instructions. Model: That an instruction of the EP completes at its issue when nothing is queued before it is
the model's choice (log 2). -/
def Obligations.MaskInstructions : Prop :=
  ∀ (f : VF) (md ma mb : MReg) (k : KReg) (s : State) (c : Core),
    (EpReady s [] [] [] true c [] →
      let hit := (activeList s f.msk).filter (fun e => (s.core.m[ma]).getLsbD e)
      MaskEffect (.mand f md ma mb) s f md (vfLen f false) c (fun e => (s.core.m[ma]).getLsbD e && (s.core.m[mb]).getLsbD e) ∧
      MaskEffect (.mor f md ma mb) s f md (vfLen f false) c (fun e => (s.core.m[ma]).getLsbD e || (s.core.m[mb]).getLsbD e) ∧
      MaskEffect (.mxor f md ma mb) s f md (vfLen f false) c (fun e => xor ((s.core.m[ma]).getLsbD e) ((s.core.m[mb]).getLsbD e)) ∧
      MaskEffect (.mnot f md ma) s f md (vfLen f false) c (fun e => !(s.core.m[ma]).getLsbD e) ∧
      KEffect (.vmpop f k ma) s f k c (BitVec.ofNat 64 hit.length) ∧
      KEffect (.vany f k ma) s f k c (if hit = [] then 0 else 1) ∧
      (hit = [] → KEffect (.vmfirst f k ma) s f k c (BitVec.allOnes 64)) ∧
      (∀ e ∈ hit, (∀ e' ∈ hit, e ≤ e') → KEffect (.vmfirst f k ma) s f k c (BitVec.ofNat 64 e))) ∧
    (∀ (n : VB) (l : List SVal), EpReady s [n] [] [] true c l →
      MaskEffect (.mset f md n) s f md (vfLen f n.isLit) c (fun e => e < sScalar (getS l 0))) ∧
    (∀ (n : VB), ∀ i ∈ ([.mand f md ma mb, .mor f md ma mb, .mxor f md ma mb, .mnot f md ma, .mset f md n, .vmpop f k ma,
        .vmfirst f k ma, .vany f k ma] : List Instr),
      i.wf = true → ∃ r, layout i = some r ∧ r.base.fn = 0 ∧ r.x.et = 0)

/-- R47, R189 to R192: deferral, draining, hashing, and the transfer to q6. Model: That an instruction of the EP completes at its
issue when nothing is queued before it is the model's choice (log 2). -/
def Obligations.DeferHashTransfer : Prop :=
  VBinary .vhash hashTy (fun _ _ _ x y => (mix (BitVec.ofNat 32 y) (BitVec.ofNat 32 x)).toNat) ∧
  (∀ (f : VF) (a b c x : VReg) (cnt : Fin 4) (s : State), EpReady s [] (firstRegs cnt a b c x) [32] (f.msk != 0) s.core [] →
    s.core.defer.length + (activeList s f.msk).length ≤ 4096 →
    Completes (.vdefer f a b c x cnt) s (fun t => ∃ es, EpDone s t { s.core with defer := s.core.defer ++ es } (vfLen f false) ∧
      es.map (·.idx) = (activeList s f.msk).map (fun e => BitVec.ofNat 32 (s.core.stripBase.toNat + e)) ∧
      ∀ (i : Fin 4) (r : VReg), (firstRegs cnt a b c x)[i.val]? = some r →
        es.map (fun y => y.vals[i]) = (activeList s f.msk).map (fun e => BitVec.ofNat 32 (elemGet 32 e (s.core.vreg r))))) ∧
  (∀ (f : VF) (d a b c : VReg) (cnt : Fin 4) (vi : VReg) (cap : BitVec 11) (s : State), EpIdle s → cap.toNat ≤ 1024 →
    (firstRegs cnt d a b c ++ [vi]).Nodup →
    Completes (.vdrain f d a b c cnt true vi cap) s (fun t =>
      let m := min s.core.defer.length cap.toNat
      t.core.vl = m ∧ t.core.defer = s.core.defer.drop m ∧
      (∀ (j : Nat) (y : DEntry), j < m → s.core.defer[j]? = some y →
        elemGet 32 j t.core.v[vi] = y.idx.toNat ∧
        ∀ (i : Fin 4) (r : VReg), (firstRegs cnt d a b c)[i.val]? = some r → elemGet 32 j t.core.v[r] = (y.vals[i]).toNat) ∧
      (∀ r, r ∉ firstRegs cnt d a b c ++ [vi] → t.core.v[r] = s.core.v[r]) ∧
      EpDone s t { s.core with v := t.core.v, poisonV := t.core.poisonV, vl := m, defer := t.core.defer } (vfLen f false))) ∧
  (∀ (f : VF) (k : KReg) (s : State), EpIdle s → s.core.q6.length < 32 →
    Completes (.vtoq f k) s (fun t =>
      EpDone s t { s.core with q6 := s.core.q6 ++ [s.core.k[k]], queueEdges := 0 } (vfLen f false)))

/-- R43, R169, R341, R348: a class-3 instruction that reads a poisoned register kills its group, at its own place, with the
register's number; in the S view one of class 3 or 4 kills it with the supervisor kind. Model: That an instruction of the EP
completes at its issue when nothing is queued before it is the model's choice (log 2). -/
def Obligations.VectorFaults : Prop :=
  ∀ (f : VF) (d r : VReg) (b : VB) (m : VM) (dl : LDst) (a : SReg) (o : AddrX) (s : State),
    (EpIdle s → s.core.entry = none → s.core.isPoisoned r = true →
      exec (.vadd f d (.v r) b) s = .next (takeKill (s.advance (vfLen f b.isLit))
        { kind := 3, pc := s.core.pc, strip := s.core.stripBase, element := some (BitVec.ofNat 32 r.val)
          resume := s.core.pc + BitVec.ofNat 64 (vfLen f b.isLit) })) ∧
    (s.core.view = .s →
      exec (.vadd f d (.v r) b) s = .next (takeKill s { kind := 27, pc := s.core.pc, strip := s.core.stripBase }) ∧
      exec (.vld m dl a o) s = .next (takeKill s { kind := 27, pc := s.core.pc, strip := s.core.stripBase }))

/-! ## Class 4 -/

/-- R51, R72, R197, R198, R208, R238, R240: the address of each access of an element, in every form of address; a packed element
that lies over the end of a byte has two, and a 64-bit element of a slice is two words of it. -/
def Obligations.ElementAddresses : Prop :=
  ∀ (m : VM) (dl : LDst) (r c : VReg) (a : SReg) (o : AddrX) (rl : RegLit) (f : BitVec 4) (cap : Capture) (iv : Vec) (e : Nat),
    let size := m.et.memW / 8
    let vas (i : Instr) : Option (List Word) := (vmDesc i).map (fun d => (d.raws cap iv e).map (fun x => x.va))
    let unit : Word := cap.aVal + cap.bVal + BitVec.ofNat 64 (e * size)
    (m.et.isPacked = false → vas (.vld m dl a o) = some [unit] ∧ vas (.vst m r a o) = some [unit]) ∧
    vas (.vldff m dl a o) = some [unit] ∧
    vas (.vlds m dl a o) = some [cap.aVal + cap.bVal * BitVec.ofNat 64 e] ∧
    vas (.vsts m r a o) = some [cap.aVal + cap.bVal * BitVec.ofNat 64 e] ∧
    vas (.vldseg m r a rl f) = some ((List.range f.toNat).map (fun i => cap.aVal + cap.bVal + BitVec.ofNat 64 ((e * f.toNat + i) * size))) ∧
    vas (.vstseg m r a rl f) = some ((List.range f.toNat).map (fun i => cap.aVal + cap.bVal + BitVec.ofNat 64 ((e * f.toNat + i) * size))) ∧
    vas (.vldx m dl a c) = some [cap.aVal + cap.bVal + BitVec.ofNat 64 (elemGet 32 e iv * size)] ∧
    vas (.vstx m r a c) = some [cap.aVal + cap.bVal + BitVec.ofNat 64 (elemGet 32 e iv * size)] ∧
    (let sl : Word := cap.aVal + cap.bVal + BitVec.ofNat 64 (elemGet 32 e iv);
      vas (.vldl m dl a o (some c)) = some (if size ≤ 4 then [sl] else [sl, sl]) ∧
      vas (.vstl m r a o (some c)) = some (if size ≤ 4 then [sl] else [sl, sl])) ∧
    (vas (.vldl m dl a o none) = some (if size ≤ 4 then [cap.aVal + cap.bVal] else [cap.aVal + cap.bVal, cap.aVal + cap.bVal]) ∧
      vas (.vstl m r a o none) = some (if size ≤ 4 then [cap.aVal + cap.bVal] else [cap.aVal + cap.bVal, cap.aVal + cap.bVal])) ∧
    (m.et.isPacked = true →
      let k := (cap.bVal.toNat + e) % 2 ^ 64
      let p := if m.et = .t6 then 24 * (k / 4) + 6 * (k % 4) else 4 * k
      let first : Word := cap.aVal + BitVec.ofNat 64 (p / 8)
      vas (.vld m dl a o) = some (if p % 8 + m.et.memW ≤ 8 then [first] else [first, first + 1]) ∧
      vas (.vst m r a o) = some (if p % 8 + m.et.memW ≤ 8 then [first] else [first, first + 1])) ∧
    (∀ rm sat sc cc, vas (.vrred m rm sat sc r a o cc) = some [unit]) ∧
    (∀ tag rel sc, vas (.vustore m tag rel sc r a o none) = some [unit] ∧
      vas (.vustore m tag rel sc r a o (some c)) = some [cap.aVal + cap.bVal + BitVec.ofNat 64 (elemGet 32 e iv * size)]) ∧
    (∀ sc msk dt md off, vas (.vlockacq sc msk dt md a c off) = some [cap.aVal + cap.bVal + BitVec.ofNat 64 (elemGet 32 e iv * 8)] ∧
      vas (.vlockrel sc msk dt a c off) = some [cap.aVal + cap.bVal + BitVec.ofNat 64 (elemGet 32 e iv * 8)])

/-- R198 to R201: the vector loads, into registers and into queues, and the vector stores. Model: That a vector memory instruction
is performed whole at its issue when nothing is queued before it is the model's choice (log 2). -/
def Obligations.VectorLoadsAndStores : Prop :=
  (∀ (m : VM) (d : LDst) (a : SReg),
      (∀ o, VLoads (.vld m d a o) (·.sreg a) (addrXVal · o) (addrXLen o)) ∧
      (∀ o, VLoads (.vldff m d a o) (·.sreg a) (addrXVal · o) (addrXLen o)) ∧
      (∀ o, VLoads (.vlds m d a o) (·.sreg a) (addrXVal · o) (addrXLen o)) ∧
      (∀ r o f, VLoads (.vldseg m r a o f) (·.sreg a) (regLitVal · o) (regLitLen o)) ∧
      (∀ c, VLoads (.vldx m d a c) (·.sreg a) (fun _ => 0) 12) ∧
      (∀ o c, VLoads (.vldl m d a o c) (·.sreg a) (addrXVal · o) (addrXLen o))) ∧
  (∀ (m : VM) (r : VReg) (a : SReg),
      (∀ o, VStores (.vst m r a o) (·.sreg a) (addrXVal · o) (addrXLen o)) ∧
      (∀ o, VStores (.vsts m r a o) (·.sreg a) (addrXVal · o) (addrXLen o)) ∧
      (∀ o f, VStores (.vstseg m r a o f) (·.sreg a) (regLitVal · o) (regLitLen o)) ∧
      (∀ c, VStores (.vstx m r a c) (·.sreg a) (fun _ => 0) 12) ∧
      (∀ o c, VStores (.vstl m r a o c) (·.sreg a) (addrXVal · o) (addrXLen o)))

/-- R208, R240, R241: additions of integers into local memory, and the vector locks, where no two accesses meet. Model: That a
vector memory instruction is performed whole at its issue when nothing is queued before it is the model's choice (log 2). -/
def Obligations.VectorAtomics : Prop :=
  (∀ (m : VM) (rm : Rm) (sat : Bool) (sc : Scope) (r : VReg) (a : SReg) (o : AddrX) (s : State) (d : VmDesc) (ps : Nat → List Piece),
    VmReady s (.vrred m rm sat sc r a o none) d (capture s (s.sreg a) (addrXVal s o) (addrXLen o)) ps → Apart s d ps →
    m.et.isI = true → Completes (.vrred m rm sat sc r a o none) s (fun t =>
      (∀ e ∈ activeList s d.msk, ∀ p ∈ ps e, p.word t =
        elemFit m.et sat (elemInt m.et (p.word s) + elemInt m.et (elemGet m.et.regW e (s.core.vreg r)))) ∧
      (∀ l k, ¬ Touched s d ps l k → (spanMem t l).read k = (spanMem s l).read k) ∧ ClusterRegsKept s t ∧
      CoresKept s t (s.core.afterVm (addrXLen o)))) ∧
  (∀ (sc : Scope) (msk : Fin 8) (dt : Bool) (md : MReg) (a : SReg) (c : VReg) (off : BitVec 32) (s : State) (d : VmDesc)
      (ps : Nat → List Piece),
    VmReady s (.vlockacq sc msk dt md a c off) d (capture s (s.sreg a) (off.signExtend 64) 12) ps → Apart s d ps →
    Unaliased s d ps → Completes (.vlockacq sc msk dt md a c off) s (fun t =>
      let token := s.core.cgid.toNat * 2 ^ 32 + s.core.index.val + 1
      MaskWritten s t.core msk md (fun e => (ps e).all (fun p => p.word s == 0 || p.word s == token)) ∧
      (∀ e ∈ activeList s d.msk, ∀ p ∈ ps e, p.word t = if p.word s = 0 then token else p.word s) ∧
      (∀ l k, ¬ Touched s d ps l k → (spanMem t l).read k = (spanMem s l).read k) ∧
      CoresKept s t { s.core.afterVm 12 with m := t.core.m })) ∧
  (∀ (sc : Scope) (msk : Fin 8) (dt : Bool) (a : SReg) (c : VReg) (off : BitVec 32) (s : State) (d : VmDesc)
      (ps : Nat → List Piece),
    VmReady s (.vlockrel sc msk dt a c off) d (capture s (s.sreg a) (off.signExtend 64) 12) ps → Apart s d ps →
    Unaliased s d ps → ToMemory s false d ps → Completes (.vlockrel sc msk dt a c off) s (fun t =>
      (∀ e ∈ activeList s d.msk, ∀ p ∈ ps e, p.word t = 0) ∧
      (∀ l k, ¬ Touched s d ps l k → (spanMem t l).read k = (spanMem s l).read k) ∧ CoresKept s t (s.core.afterVm 12)))

/-- R48, R202, R206, R350: a first-fault load whose first active element can be read and a later one, e, meets a page that is not
present, sets VL to e and STRIP.next to STRIP.base + e, and raises nothing; vresume with nothing partial to resume answers 0,
and with a head whose groups can all be performed it performs them, sets PMASK to all ones and answers 0. Model: That a vector
memory instruction is performed whole at its issue when nothing is queued before it is the model's choice (log 2). -/
def Obligations.FirstFaultAndResume : Prop :=
  (∀ (m : VM) (rd : VReg) (a : SReg) (o : AddrX) (s : State) (e : Nat) (ps : Nat → List Piece) (x : ElFault),
      EpIdle s → s.core.vmq = [] → Quiet s → m.msk = 0 → s.core.team = false → 0 < e → e < s.core.vl →
      s.core.vl ≤ 32768 / m.et.regW → ∀ d, vmDesc (.vldff m (.v rd) a o) = some d →
      (∀ i, i < e → checkElem s d (d.raws (capture s (s.sreg a) (addrXVal s o) (addrXLen o)) 0 i) = .ok (ps i) ∧
        ∀ p ∈ ps i, p.isFifo = false ∧ ∀ y, p.dst = .gen y → aliasDirty s (lineOf y.pa) = false) →
      (∀ i, i < e → ∀ p ∈ ps i, ∀ y, p.dst = .gen y → ∀ j, j < e → ∀ q ∈ ps j, ∀ z, q.dst = .gen z →
        memKey s.part (lineOf y.pa * 128) = memKey s.part (lineOf z.pa * 128) → lineOf y.pa = lineOf z.pa) →
      checkElem s d (d.raws (capture s (s.sreg a) (addrXVal s o) (addrXLen o)) 0 e) = .bad x → x.kind = 8 →
      (∀ i, e < i → i < s.core.vl → ∃ y, checkElem s d (d.raws (capture s (s.sreg a) (addrXVal s o) (addrXLen o)) 0 i) = .bad y ∧ y.kind = 8) →
      Completes (.vldff m (.v rd) a o) s (fun t =>
        t.core.vl = e ∧ t.core.stripNext = s.core.stripBase + BitVec.ofNat 64 e ∧ t.core.view = s.core.view ∧
        (∀ i, i < 32768 / m.et.regW → elemGet m.et.regW i t.core.v[rd] =
          if i < e then putBits m.et (fieldOf s (ps i) 0) else elemGet m.et.regW i (s.core.vdest rd)) ∧ MemoryKept s t)) ∧
  (∀ (d : SReg) (s : State), s.core.view ≠ .u →
      (s.core.vmq = [] → Completes (.vresume d) s (fun t => Wrote s t d 0 12)) ∧
      (∀ (op : VmOp) (l : List VmOp) (u : State), s.core.vmq = op :: l → op.partly = true → vmTry s op = .done u [] none →
        s.core.viq = [] → u.core = s.core →
        Completes (.vresume d) s (fun t => ∃ v, Wrote v t d 0 12 ∧
          v = { u with core := { u.core with vmq := l, pmask := BitVec.allOnes 1024 } })))

/-! ## Classes 5 to 7 -/

/-- R96, R97, R237, R238: an update of a host-owned page is one operation on the word in memory; one of a device page goes to the
cluster's line in U under the tag, its other elements the tag's identity, and no byte of memory changes. Model: That a
cluster's request for a line in U is granted at once unless it is slow is the model's choice (log 11). -/
def Obligations.UpdateOnly : Prop :=
  (∀ (tag : UTag) (rel : Bool) (sc : Scope) (d a : SReg) (o : AddrX) (s : State) (x : Xl),
    Quiet s → s.core.vmq = [] →
    let va := s.sreg a + addrXVal s o
    let n := utagW tag / 8
    let v := (s.sreg d).toNat % 2 ^ utagW tag
    va.extractLsb' 48 16 = 0 → alignedTo va n = true → s.check .update va = .ok x →
    (pageState s.coh x.pa = .host → aliasDirty s (lineOf x.pa) = false → Completes (.ustore tag rel sc d a o) s (fun t =>
      Stored s.mem t.mem (memKey s.part x.pa) n (utagOp tag (s.mem.readN (memKey s.part x.pa) n) v) ∧
      (∀ k, t.loc.read k = s.loc.read k) ∧ t.poison = s.poison ∧ ClusterRegsKept s t ∧
      CoresKept s t { s.core with pc := s.core.pc + BitVec.ofNat 64 (addrXLen o) })) ∧
    (pageState s.coh x.pa ≠ .host → s.coh.slowU = false → s.coh.ureqs = [] → s.coh.ugrants = [] →
      (let u := walkLoads s s.cl s.core.vdid (s.way x va false);
        linesInSet (getCl u u.cl) (setOf (lineOf x.pa)) < cacheWays (getCl u u.cl)) →
      Completes (.ustore tag rel sc d a o) s (fun t => MemoryKept s t ∧ ClusterRegsKept s t ∧
        CoresKept s t { s.core with pc := s.core.pc + BitVec.ofNat 64 (addrXLen o) } ∧
        findURec t.coh (lineOf x.pa) = some ⟨lineOf x.pa, tag, BitVec.twoPow 128 s.cl.val, none, 0, none⟩ ∧
        ∃ u, (getCl t s.cl).us = [u] ∧ u.line = lineOf x.pa ∧ u.tag = tag ∧ u.touched = byteMask (x.pa % 128) n ∧
          lineGet u.data (x.pa % 128) n = utagOp tag (utagIdentity tag) v ∧
          ∀ j, j < 128 / n → j * n ≠ x.pa % 128 → lineGet u.data (j * n) n = utagIdentity tag))) ∧
  (∀ (m : VM) (tag : UTag) (rel : Bool) (sc : Scope) (r : VReg) (a : SReg) (o : AddrX) (c : Option VReg) (s : State)
      (d : VmDesc) (ps : Nat → List Piece),
    vustoreTy tag m.et = true →
    VmReady s (.vustore m tag rel sc r a o c) d (capture s (s.sreg a) (addrXVal s o) (addrXLen o)) ps → Apart s d ps →
    Unaliased s d ps → (∀ e ∈ activeList s d.msk, ∀ p ∈ ps e, ∀ x, p.dst = .gen x → pageState s.coh x.pa = .host) →
    Completes (.vustore m tag rel sc r a o c) s (fun t =>
      (∀ e ∈ activeList s d.msk, ∀ p ∈ ps e, p.word t = utagOp tag (p.word s) (elemGet m.et.regW e (s.core.vreg r))) ∧
      (∀ l k, ¬ Touched s d ps l k → (spanMem t l).read k = (spanMem s l).read k) ∧ ClusterRegsKept s t ∧
      CoresKept s t (s.core.afterVm (addrXLen o))))

/-- R83, R102, R107, R236, R242, R243: fences; what they write home; the walks of cflush and cinv over a range in one page. Model:
That a cluster's request for a line in U is granted at once unless it is slow is the model's choice (log 11). -/
def Obligations.FencesAndWalks : Prop :=
  ∀ (s : State), s.core.vmq = [] →
    (∀ sc, Completes (.fenceAcq sc) s (fun t => Went s t (s.core.pc + 4))) ∧
    (∀ sc, (getCl s s.cl).uwaits = [] → ∀ i ∈ ([.fenceRel sc, .fenceAcqrel sc] : List Instr),
      Completes i s (fun t => (getCl t s.cl).ws = [] ∧ t.loc = s.loc ∧ CoresKept s t { s.core with pc := s.core.pc + 4 }) ∧
      ∀ w : WLine, (getCl s s.cl).ws = [w] → findURec s.coh w.line = none → aliasDirty s w.line = false →
        activeFor s w.line = none → Completes i s (fun t => ∀ k, t.mem.read k =
        let key := memKey s.part (w.line * 128)
        if key ≤ k ∧ k < key + 128 ∧ w.mask.getLsbD (k - key) = true then BitVec.ofNat 8 (lineGet w.data (k - key) 1)
        else s.mem.read k)) ∧
    (∀ (a : SReg) (len : AddrX) (x : Xl), Quiet s →
      let va := s.sreg a + spanOff len
      let n := (spanLen s len).toNat
      n ≠ 0 → n ≤ 2 ^ 30 → va.toNat + n ≤ 2 ^ 48 → (va.toNat + n - 1) / 2 ^ 16 = va.toNat / 2 ^ 16 →
      s.check .any va = .ok x → pageState s.coh x.pa ≠ .host →
      (∀ inv sc, Completes (.cflush inv sc a len) s (fun t => MemoryKept s t ∧
        CoresKept s t { s.core with pc := s.core.pc + BitVec.ofNat 64 (addrXLen len) } ∧
        ∀ c, ∀ l ∈ (getCl t c).lines, l.line / 512 = x.pa / 2 ^ 16 → x.pa / 128 ≤ l.line → l.line ≤ (x.pa + n - 1) / 128 →
          inv = false ∧ l.st ≠ .m)) ∧
      (∀ kind, Completes (.cinv kind a len) s (fun t => MemoryKept s t ∧
        t.core = { s.core with
          icache := s.core.icache.filter (fun l => !spanHits s.part x.pa n l.line)
          pc := s.core.pc + BitVec.ofNat 64 (addrXLen len), wait := .none } ∧
        ∀ dv, s.vd = some dv → ∀ c ∈ t.rest, (dv.excl ||| dv.shared).getLsbD c.index.val = true →
          kind = .vdev ∨ (kind = .cl ∧ coreCluster c.index = s.cl) → ∀ l ∈ c.icache, spanHits s.part x.pa n l.line = false)))

/-- R18, R211 to R214, R219, R265: attaching, detaching and zeroing accumulator tiles; a grant of one plane-clock to the only
pending pass, whose B a register holds, charged to its bucket; a load done, whose register holds the bytes of its source.
Model: That an engine's whole work is one event is the model's choice (log 3). -/
def Obligations.MatrixAttach : Prop :=
  ∀ (s : State),
    (∀ (d : SReg) (dv : Vd) (req : Word), s.vd = some dv →
      (req.extractLsb' 0 5).toNat ≤ 16 → req.extractLsb' 5 3 = 0 → req.extractLsb' 12 52 = 0 →
      let fits := accRoom s dv s.cl.val (bits4 (req.extractLsb' 8 4 &&& ~~~s.core.acc))
      (∀ a, s.sreg a = req → Completes (.mattach d a) s (fun t => Attached s t req d 4 fits)) ∧
      (∀ r : BitVec 32, r.zeroExtend 64 = req → Completes (.mattachImm d r) s (fun t => Attached s t req d 12 fits))) ∧
    (∀ mask : BitVec 6, (∀ m ∈ s.core.mats, ∀ z, matZ m.ins = some z → mask.getLsbD z.val = false) →
      Completes (.mdetach mask) s (fun t => t = { s with core := { s.core with
        acc := s.core.acc &&& ~~~(mask.extractLsb' 0 4), want := if mask.getLsbD 4 then 0 else s.core.want
        pc := s.core.pc + 4, wait := .none } })) ∧
    (∀ z : ZReg, s.core.acc.getLsbD z.val = true → (∀ m ∈ s.core.mats, matZ m.ins ≠ some z) →
      Completes (.mzero z) s (fun t => t = { s with core := { s.core with
        z := s.core.z.set z 0, pc := s.core.pc + 4, wait := .none } })) ∧
    (∀ (m : MatOp) (b : BLoad) (k : Bucket), (∀ c ∈ s.rest, c.mats = []) → s.core.run ≠ .off → engFrozen s.core = false →
      s.core.mats.Pairwise (fun x y => x.seq ≠ y.seq) → firstPass s.core = some (m, b) →
      bHeld (getCl s s.cl) (s.core, m, b) true = true → (getCl s s.cl).planeAt < (s.part.dies[s.die]).edges →
      classThree s.part 0 s.cl.val s.core.vdid = true → findBucket s.part 0 s.cl.val s.core.vdid = some k →
      Completes (.matrixGrant s.cl.val) s (fun t =>
        let n := min (passWant s.core m) (min (k.level / 1024).toNat 16)
        let j := feedReg (getCl s s.cl) (s.core, m, b)
        let mats := if m.begun = true ∨ n = 0 then s.core.mats else startTimes s.core m
        t.core = { s.core with
          lanes := n
          mats := mats.map (fun x => if x.seq == m.seq then feedPass s.core x (getCl s s.cl).bdata[j] n else x) } ∧
        (getCl t s.cl).arrayB = j ∧ (getCl t s.cl).planeAt = (s.part.dies[s.die]).edges ∧
        (getCl t s.cl).breg[j] = (getCl s s.cl).breg[j] ∧ (getCl t s.cl).bdata = (getCl s s.cl).bdata ∧ MemoryKept s t ∧
        findBucket t.part 0 s.cl.val s.core.vdid = some { k with level := k.level - 1024 * n, own := k.own + n })) ∧
    (∀ (c : Fin 128) (second : Bool) (b : BLoad),
      let j : Fin 2 := if second then 1 else 0
      (getCl s c).breg[j] = some b → Completes (.bLoadComplete c.val second) s (fun t =>
        (getCl t c).breg[j] = some { b with loaded := true } ∧ (getCl t c).bdata[j] = loadPart s c.val b ∧ (∀ i : Fin 2, i ≠ j → (getCl t c).breg[i] = (getCl s c).breg[i]) ∧
        MemoryKept s t ∧ t.core = s.core ∧ t.rest = s.rest))

/-- R215 to R217, R220, R222: when an operation of the matrix unit is accepted; a drain of no rows is an illegal operand. Model:
That an engine's whole work is one event is the model's choice (log 3). -/
def Obligations.MatrixIssue : Prop :=
  ∀ (s : State), Quiet s → s.core.vmq = [] →
    (∀ (td ta : TSlot) (et : ElemTy) (p : BitVec 5) (b sc : Bool) (rows : BitVec 7), s.core.want ≠ 0 →
      s.core.tileIn ta .ready (mpackSrcBytes et b sc rows) → s.core.tileIn td .filling (planeBytes (mpackRows b rows) p.toNat) →
      Completes (.mpack td ta et p b sc rows) s (fun t => MatIssued s t (.mpack td ta et p b sc rows) 0 0 12)) ∧
    (∀ (z : ZReg) (ta : TSlot) (pa pb : BitVec 5) (rows : BitVec 7) (row0 : BitVec 6), row0.toNat + rows.toNat ≤ 64 →
      s.core.acc.getLsbD z.val = true → s.core.want ≠ 0 → s.core.tileIn ta .ready (planeBytes rows.toNat pa.toNat) →
      (∀ tb, s.core.tileIn tb .ready (planeBytes 256 pb.toNat) →
        Completes (.mmul z ta (.tile tb) pa pb rows row0) s (fun t => MatIssued s t (.mmul z ta (.tile tb) pa pb rows row0) 0 0 12)) ∧
      (∀ (r : SReg) (key : Nat), (∀ k, spCheck s (s.sreg r) (planeBytes 256 pb.toNat) k = k key) →
        Completes (.mmul z ta (.sp r) pa pb rows row0) s (fun t => MatIssued s t (.mmul z ta (.sp r) pa pb rows row0) key 0 12))) ∧
    (∀ (x : TSlot) (z : ZReg), s.core.acc.getLsbD z.val = true →
      (s.core.tileIn x .filling 0x10000 → Completes (.mdrain x z) s (fun t => MatIssued s t (.mdrain x z) 0 0 4)) ∧
      (∀ (f : DrainFmt) (zero : Bool) (row0 : BitVec 6), exec (.mdrainExt x z f zero 0 row0) s =
        .next (takeFault s { kind := 2, pc := s.core.pc, strip := s.core.stripBase })) ∧
      (∀ (f : DrainFmt) (zero : Bool) (rows : BitVec 7) (row0 : BitVec 6), rows ≠ 0 → row0.toNat + rows.toNat ≤ 64 →
        s.core.tileIn x .filling (rows.toNat * 256 * drainSize f) →
        Completes (.mdrainExt x z f zero rows row0) s (fun t => MatIssued s t (.mdrainExt x z f zero rows row0) 0 0 12)) ∧
      (∀ (slot : Fin 8) (zero : Bool) (y : CollSlot), s.core.colls[slot] = some y → y.refused = false →
        Completes (.mdrainf z slot zero) s (fun t => MatIssued s t (.mdrainf z slot zero) 0 (y.round + 1) 12 ∧
          t.core.colls = s.core.colls.set slot (some { y with round := y.round + 1, inFlight := y.inFlight + 1 }))))

/-- R18, R64 to R66, R214, R216, R217, R219, R220: what an operation of the matrix unit leaves: packed planes and their scales,
each element of an accumulator tile written once from the exact sum over what the B registers have fed, when the last load of
B has been worked on, a zeroed tile, and drained elements; what the loads of a B bring are its planes and scales as they stood
in local space. Model: That an engine's whole work is one event is the model's choice (log 3). -/
def Obligations.MatrixResults : Prop :=
  ∀ (s : State) (i : Nat) (m : MatOp), matReady s.core i = some m →
    (∀ (td ta : TSlot) (et : ElemTy) (p : BitVec 5) (b sc : Bool) (rows : BitVec 7), m.ins = .mpack td ta et p b sc rows →
      2 ≤ p.toNat → touchesPoison s.locPoison (tileKey s.core ta) (mpackSrcBytes et b sc rows) = false →
      Completes (.mpackComplete i) s (fun t =>
        let n := mpackRows b rows
        (∀ r, r < n → ∀ q, q < 8 →
          let row := planeRow t.loc (tileKey s.core td) n p.toNat r
          let packed := packPlanes ((List.range 32).map (fun k => mpackVal s.loc (tileKey s.core ta) et b sc rows r (32 * q + k))) p.toNat
          row.2[q]? = some packed.1 ∧ ∀ k, k < 32 → packed.2[k]? = some (sigOf row.1 (32 * q + k))) ∧
        LocalElse s t (tileKey s.core td) ((planeBytes n p.toNat + 31) / 32 * 32) ∧
        t.core.mats = s.core.mats.filter (fun y => y.seq != m.seq) ∧ t.core.z = s.core.z)) ∧
    (∀ (z : ZReg) (ta : TSlot) (b : MmulB) (pa pb : BitVec 5) (rows : BitVec 7) (row0 : BitVec 6),
      m.ins = .mmul z ta b pa pb rows row0 → passOpen m = true → Completes (.mmulPassComplete i) s (fun t => t = s)) ∧
    (∀ z : ZReg, m.ins = .mzero z → Completes (.mmulPassComplete i) s (fun t =>
      t.core.z = s.core.z.set z 0 ∧ t.core.mats = s.core.mats.filter (fun y => y.seq != m.seq) ∧ t.core.s = s.core.s ∧
      MemoryKept s t ∧ t.rest = s.rest)) ∧
    (∀ (z : ZReg) (ta : TSlot) (b : MmulB) (pa pb : BitVec 5) (rows : BitVec 7) (row0 : BitVec 6),
      m.ins = .mmul z ta b pa pb rows row0 → passOpen m = false →
      touchesPoison s.locPoison (tileKey s.core ta) (planeBytes rows.toNat pa.toNat) = false →
      (∀ x ∈ m.bs, x.bad = false) →
      Completes (.mmulPassComplete i) s (fun t =>
        (∀ r j, r < 64 → j < 256 → zGet t.core.z[z] r j =
          if row0.toNat ≤ r ∧ r < row0.toNat + rows.toNat then
            passElem (planeRow s.loc (tileKey s.core ta) rows.toNat pa.toNat (r - row0.toNat))
              (bCol m.bs pb.toNat j) (zGet s.core.z[z] r j) % 2 ^ 32
          else zGet s.core.z[z] r j) ∧
        (∀ z', z' ≠ z → t.core.z[z'] = s.core.z[z']) ∧ t.loc = s.loc ∧ MemoryKept s t ∧
        t.core.mats = s.core.mats.filter (fun y => y.seq != m.seq))) ∧
    (let drained (x : TSlot) (z : ZReg) (f : DrainFmt) (zero : Bool) (rows row0 : Nat) : Prop :=
        Completes (.mdrainComplete i) s (fun t =>
          (∀ n, n < rows * 256 → t.loc.readN (tileKey s.core x + n * drainSize f) (drainSize f) =
            drainElem f (zGet s.core.z[z] (row0 + n / 256) (n % 256)) % 256 ^ drainSize f) ∧
          LocalElse s t (tileKey s.core x) (rows * 256 * drainSize f) ∧
          (∀ r j, r < 64 → j < 256 → zGet t.core.z[z] r j =
            if zero = true ∧ row0 ≤ r ∧ r < row0 + rows then 0 else zGet s.core.z[z] r j) ∧
          (∀ z', z' ≠ z → t.core.z[z'] = s.core.z[z']) ∧ t.core.mats = s.core.mats.filter (fun y => y.seq != m.seq));
      (∀ x z, m.ins = .mdrain x z → drained x z .f32 false 64 0) ∧
      (∀ x z f zero (rows : BitVec 7) (row0 : BitVec 6), m.ins = .mdrainExt x z f zero rows row0 →
        drained x z f zero rows.toNat row0.toNat)) ∧
    (∀ (cl : Nat) (b : BLoad) (j : Nat), 1 ≤ b.planes → j < 256 →
      bCol ((List.range (bLoads b.planes)).map (fun k => loadPart s cl { b with part := k })) b.planes j =
        planeRow s.loc (if b.scratch then scratchKey cl b.addr else coreKey b.core b.addr) 256 b.planes j)

/-- R221, R222, R289, R290, R376: joining and leaving a collective; a contribution sent and one received; a round that ends and a
round that is aborted, where the part receives no result. Model: That an engine's whole work is one event is the model's
choice (log 3). The counters of a destination that cannot be written are left as they are (log 21). -/
def Obligations.Collectives : Prop :=
  ∀ (s : State),
    (∀ (d a : SReg) (slot : Fin 8) (leave : Bool) (sc : Scope) (raw : Nat), Quiet s → s.core.vmq = [] →
      (s.sreg a).extractLsb' 48 16 = 0 → alignedTo (s.sreg a) 64 = true →
      readPieces s (s.check .load) s.cl 1 (s.sreg a) = .ok raw → NoAlias s →
      let id := recWord raw 0
      let n := recField raw 8 2
      let rank := recField raw 10 2
      let op := recField raw 12 1
      1 ≤ n → n ≤ 4096 → rank < n → (op = 3 ∨ op = 9 ∨ op = 10) → recField raw 13 3 = 0 → recField raw 0x20 32 = 0 →
      (recWord raw 0x10).toNat % 128 = 0 → (recWord raw 0x10).extractLsb' 48 16 = 0 →
      let here : Prop := ∃ c, findColl s.part id = some c ∧ (leave = true ∨ c.ranks[rank]? = some (s.part.fabric, s.core.index.val))
      ((∀ x, s.core.colls[slot] = some x → x.inFlight = 0) → here → Completes (.coll d a slot leave sc) s (fun t =>
        let slots := s.core.colls.set slot
          (if leave then none else some ⟨id, n, rank, op, recWord raw 0x10, recWord raw 0x18, sc, 0, 0, false⟩)
        CoresKept s t { s.core.after d 0 12 with colls := slots } ∧ MemoryKept s t ∧ ClusterRegsKept s t)) ∧
      ((∀ x, s.core.colls[slot] = some x → x.inFlight = 0) → ¬ here →
        Completes (.coll d a slot leave sc) s (fun t => CoresKept s t (s.core.after d 2 12) ∧ MemoryKept s t ∧ ClusterRegsKept s t)) ∧
      (∀ x, s.core.colls[slot] = some x → 0 < x.inFlight →
        Completes (.coll d a slot leave sc) s (fun t => CoresKept s t (s.core.after d 1 12) ∧ MemoryKept s t ∧ ClusterRegsKept s t))) ∧
    (∀ (id round rank i : Nat) (slot : Fin 8) (m : MatOp) (x : CollSlot) (z : ZReg) (sl : Fin 8) (zero : Bool) (data : Sys2Proof.Acc),
      ownContribution s.core id round rank = some (i, slot) → matReady s.core i = some m → s.core.colls[slot] = some x →
      m.ins = .mdrainf z sl zero → x.result ≠ 0 →
      let inside : Prop := ∃ c, findColl s.part x.id = some c ∧ collLocal s.part c = true
      let ports := sendPorts s.part s.core.vdid
      let w := groupWork s.part s.core.cgid
      let q := chargePath s.part s.core.vdid w (some s.cl.val) none (64 * 1025)
      (¬ inside → ports = [] → exec (.crazanContribution id round rank data) s = .next s) ∧
      ∀ p, (inside ∧ p = q) ∨ (¬ inside ∧ ports ≠ [] ∧ p = chargeFlits q s.core.vdid w ports) →
        Completes (.crazanContribution id round rank data) s (fun t =>
        t.part = { p with contribs := s.part.contribs ++ [⟨x.id, round, rank, x.op, s.core.z[z], some (destOf s.core x)⟩] } ∧
        t.core.z = (if zero then s.core.z.set z 0 else s.core.z) ∧ t.core.mats = s.core.mats.filter (fun y => y.seq != m.seq) ∧
        MemoryKept s t)) ∧
    (∀ (id round rank : Nat) (data : Sys2Proof.Acc) (c : Collective), ownContribution s.core id round rank = none →
      findColl s.part (BitVec.ofNat 64 id) = some c →
      (∀ k ∈ s.part.contribs, ¬ (k.id.toNat = id ∧ k.round = round ∧ k.rank = rank)) →
      Completes (.crazanContribution id round rank data) s (fun t => t = { s with part := { s.part with
        contribs := s.part.contribs ++ [⟨BitVec.ofNat 64 id, round, rank, 3, data, none⟩] } })) ∧
    (∀ (id round : Nat) (c : Collective), findColl s.part (BitVec.ofNat 64 id) = some c →
      (∀ k ∈ s.part.contribs, k.dest = none) → s.core.mats = [] → (∀ c ∈ s.rest, c.mats = []) →
      let ended (t : State) (abort : Bool) : Prop :=
        MemoryKept s t ∧ (∀ k, k ∈ t.part.contribs ↔ k ∈ s.part.contribs ∧ ¬ (k.id.toNat = id ∧ k.round = round)) ∧
        ∀ (j : Fin 8) (x : CollSlot), s.core.colls[j] = some x → t.core.colls[j] = some (if x.id.toNat = id ∧ round ≤ x.round then
          { x with inFlight := x.inFlight - 1, refused := x.refused || abort }
        else if x.id.toNat = id then { x with refused := x.refused || abort } else x);
      ((∀ r, r < c.nranks → ∃ k ∈ s.part.contribs, k.id.toNat = id ∧ k.round = round ∧ k.rank = r) →
        Completes (.collectiveRoundComplete id round) s (fun t => ended t false)) ∧
      ((∀ x ∈ joinedRanks s id, x.result = 0 ∧ x.counter = 0) →
        Completes (.collectiveAbort id round) s (fun t => ended t true))) ∧
    (∀ (t : UTag) (leaf : Nat → Nat), collTree t leaf 2 0 = utagOp t (utagOp t (leaf 0) (leaf 1)) (utagOp t (leaf 2) (leaf 3)))

/-- R226 to R229, R341, R343, R346, R351, R384: copies accepted; one run of whole sectors within the core's own store moved to its
end; a stopped copy taken at a boundary as a repair or a kill, and moved on by cpyresume. Model: That an engine's whole work
is one event is the model's choice (log 3). -/
def Obligations.Copies : Prop :=
  ∀ (s : State),
    (∀ (sc : Scope) (d a b c : SReg) (t0 : TSlot), Quiet s → s.core.vmq = [] → s.core.copies.length < 256 →
      (∀ k, baseCheck s (s.sreg d) 32 k = k ()) → (∀ k, baseCheck s (s.sreg a) 32 k = k ()) →
      (c ≠ 0 → ∀ k, counterCheck s (s.sreg c) .atomic k = k ()) →
      let issued (i : Instr) (idx : Option VReg) : Prop :=
        shapeBad (copyOp i d a b c false t0 s) = false → s.core.viq = [] → (∀ v, idx = some v → s.core.isPoisoned v = false) →
        Completes i s (fun t => CopyIssued s t { copyOp i d a b c false t0 s with idx := idx.map s.core.vreg } 12)
      issued (.cpy sc d a b c false t0) none ∧
      (∀ f size vi, issued (.cpyseg sc d a b c f size false vi false t0) none ∧
        issued (.cpyseg sc d a b c f size true vi false t0) (some vi)) ∧
      (∀ vi, issued (.cpyx sc d a b c vi false t0) (some vi)) ∧
      ∀ i, (copyOp i d a b c false t0 s).dst = s.sreg d ∧ (copyOp i d a b c false t0 s).src = s.sreg a ∧
        (copyOp i d a b c false t0 s).done = 0 ∧ (copyOp i d a b c false t0 s).st = .moving ∧
        (copyOp i d a b c false t0 s).ctr = if c = 0 then none else some (s.sreg c)) ∧
    (∀ (i : Nat) (x : CopyOp) (sc : Scope) (d a b c : SReg) (t0 : TSlot) (dst src n : Nat),
      s.core.copies[i]? = some x → x.ins = .cpy sc d a b c false t0 → x.tile = none → x.ctr = none → x.done = 0 → x.st = .moving →
      engFrozen s.core = false → x.dst = 0x8000000000000000 + BitVec.ofNat 64 dst → x.src = 0x8000000000000000 + BitVec.ofNat 64 src →
      cpyN0 x = n → cpyN1 x = 1 → cpyN2 x = 1 → n % 32 = 0 → 32 ≤ n → dst % 32 = 0 → src % 32 = 0 →
      dst + n ≤ 0x80000 → src + n ≤ 0x80000 → (dst + n ≤ src ∨ src + n ≤ dst) →
      touchesPoison s.locPoison (coreKey s.core.index.val src) n = false →
      Completes (.copyComplete i) s (fun t =>
        (∀ k, k < n → t.loc.read (coreKey s.core.index.val (dst + k)) = s.loc.read (coreKey s.core.index.val (src + k))) ∧
        LocalElse s t (coreKey s.core.index.val dst) n ∧ t.core.copies = s.core.copies.filter (fun y => y.seq != x.seq))) ∧
    (∀ (i : Nat) (x : CopyOp) (k : BitVec 8) (lvl : Nat) (addr time : Word), s.core.copies[i]? = some x →
      (∀ y ∈ s.core.copies, y.seq = x.seq → y = x) → x.st = .stopped k lvl addr time false →
      (copyRepair k = true → s.core.view ≠ .s → s.core.held = false → s.core.run ≠ .yielded → entryWaits s = false →
        Completes (.copyFault i) s (fun t =>
          Entered (s.core.setCopy { x with st := .stopped k lvl addr time true }) t.core 23 s.core.pc)) ∧
      (copyRepair k = false → exec (.copyFault i) s = .next (takeKill s
        { kind := k, pc := s.core.pc, strip := s.core.stripBase, sub := BitVec.ofNat 16 lvl, addr := some addr
          resume := (resumePoint x).1, rdst := (resumePoint x).2, time := some time }))) ∧
    (∀ k : BitVec 8, copyRepair k = true ↔ k = 8 ∨ k = 11 ∨ k = 12 ∨ k = 13) ∧
    (∀ (d a : SReg), s.core.view ≠ .u →
      ((s.core.copies.filter isStopped)[(s.sreg a).toNat]? = none → Completes (.cpyresume d a) s (fun t => Wrote s t d 1 4)) ∧
      (∀ x, (s.core.copies.filter isStopped)[(s.sreg a).toNat]? = some x → Quiet s → releaseWaits s = false →
        Completes (.cpyresume d a) s (fun t =>
        ∃ u, Wrote u t d 0 4 ∧ u = { s with core := s.core.setCopy { x with st := .moving } })))

/-- R76, R223 to R225: tiles declared, released, emptied and asked for; a tile that overlaps one in use is not declared. Model:
That an engine's whole work is one event is the model's choice (log 3). -/
def Obligations.Tiles : Prop :=
  ∀ (s : State) (x : TSlot),
    (∀ (a b : SReg) (fills : BitVec 16),
      let base := (s.sreg a).toNat
      let len := (s.sreg b).toNat
      base % 32 = 0 → len % 32 = 0 → len ≠ 0 → base + len ≤ 0x80000 → (s.core.tiles[x]).st = .empty → dflag s 1 = false →
      ((∀ y : TSlot, (s.core.tiles[y]).st = .empty ∨ base + len ≤ (s.core.tiles[y]).base ∨
          (s.core.tiles[y]).base + (s.core.tiles[y]).len ≤ base) →
        Completes (.tdecl x a b fills) s (fun t =>
          let tile : Tile := ⟨if fills = 0 then .ready else .filling, base, len, fills.toNat, none⟩
          t = { s with core := { s.core with tiles := s.core.tiles.set x tile, pc := s.core.pc + 12, wait := .none } })) ∧
      (∀ y : TSlot, (s.core.tiles[y]).st ≠ .empty → (s.core.tiles[y]).base < base + len →
        base < (s.core.tiles[y]).base + (s.core.tiles[y]).len →
        exec (.tdecl x a b fills) s = .next (takeFault s { kind := 2, pc := s.core.pc, strip := s.core.stripBase }))) ∧
    ((s.core.tiles[x]).st = .ready → (s.core.tiles[x]).stamp = none → tileBusy s.core x = false →
      Completes (.trel x) s (fun t => t.core = { s.core with
        tiles := s.core.tiles.set x ⟨.empty, 0, 0, 0, none⟩, pc := s.core.pc + 4, wait := .none } ∧ MemoryKept s t)) ∧
    ((s.core.tiles[x]).st ≠ .ready → exec (.trel x) s = .next (takeFault s
      { kind := 17, pc := s.core.pc, strip := s.core.stripBase, sub := BitVec.ofNat 16 x.val })) ∧
    ((s.core.tiles[x]).st = .draining → (s.core.tiles[x]).stamp = none → tileBusy s.core x = false →
      Completes (.tileRetire x) s (fun t =>
        t = { s with
          core := { s.core with tiles := s.core.tiles.set x ⟨.empty, 0, 0, 0, none⟩ }, clusters := t.clusters } ∧
        ∀ c, getCl t c = { getCl s c with breg := (getCl t c).breg })) ∧
    (∀ d, Completes (.tstate d x) s (fun t => Wrote s t d (BitVec.ofNat 64 ((match (s.core.tiles[x]).st with
      | .empty => 0
      | .filling => 1
      | .ready => 2
      | .draining => 3) + (s.core.tiles[x]).fills % 2 ^ 16 * 2 ^ 16)) 4))

/-- R230 to R233, R309, R387, R388: streams bound, pushed, stopped by a fault and ended; a wait for a counter, and an add to one,
in local space and in generic memory. Model: That an engine's whole work is one event is the model's choice (log 3). -/
def Obligations.StreamsAndCounters : Prop :=
  ∀ (s : State) (q : Fin 4),
    (∀ (sc : Scope) (a b : SReg) (w : Fin 4),
      let sh := s.sreg b
      let bytes := (sh.extractLsb' 0 16).toNat
      Quiet s → s.core.vmq = [] → 32 ≤ bytes → bytes ≤ 4096 → bytes % 2 ^ w.val = 0 → sh.extractLsb' 16 32 ≠ 0 →
      sh.extractLsb' 48 16 = 0 → s.core.streams[q] = none → s.core.vq[q] = [] → (∀ k, baseCheck s (s.sreg a) 1 k = k ()) →
      Completes (.strm sc q a b w) s (fun t =>
        let x : Stream := ⟨s.sreg a, s.sreg (b + 1), bytes, 2 ^ w.val, (sh.extractLsb' 16 32).toNat, 0, none⟩
        t = { s with core := { s.core with
          streams := s.core.streams.set q (some x), seq := s.core.seq + 1, pc := s.core.pc + 12, wait := .none } })) ∧
    (∀ x : Stream, s.core.streams[q] = some x → x.fault = none → x.next < x.count → (s.core.vq[q]).length < 4 →
      engFrozen s.core = false →
      let l := bytePieces 200 (x.base + BitVec.ofNat 64 x.next * x.stride) x.bytes 0
      (∀ (u : State) v bad, readEntry s l = .ok (u, v, bad) → Completes (.streamEntryPush q) s (fun t =>
        let e : QEntry := ⟨BitVec.ofNat 32768 v, x.bytes / x.width, bad, 0⟩
        t = { u with core := { u.core with
          queueEdges := 0, vq := u.core.vq.set q (u.core.vq[q] ++ [e])
          streams := u.core.streams.set q (some { x with next := x.next + 1 }) } } ∧
        (Quiet s → NoAlias s → x.bytes ≤ 4096 → bad = 0 → MemoryKept s t ∧ t.core.vq = s.core.vq.set q (s.core.vq[q] ++ [e])))) ∧
      (∀ (u : State) k lvl addr, readEntry s l = .fault u k lvl addr → Completes (.streamEntryPush q) s (fun t =>
        t = { u with core := { u.core with streams := u.core.streams.set q (some { x with fault := some (k, addr) }) } }))) ∧
    (∀ (x : Stream) (i : Instr) (cap : Capture) (l : List EpOp), s.core.streams[q] = some x → x.fault ≠ none → s.core.vq[q] = [] →
      s.core.viq = ⟨.ins i, cap⟩ :: l → cap.sup = false → s.core.entry = none →
      (32 + q.val ∈ popCodes i → exec (.streamFaultTaken q) s = .next (takeKill s
        { kind := 24, pc := cap.pc, strip := cap.stripBase, sub := BitVec.ofNat 16 (32 + q.val), resume := s.core.pc })) ∧
      (32 + q.val ∉ popCodes i → exec (.streamFaultTaken q) s = .next s)) ∧
    (s.core.streams[q] ≠ none → Completes (.strmend q) s (fun t => t = { s with core := { s.core with
      streams := s.core.streams.set q none, vq := s.core.vq.set q [], queueEdges := 0, pc := s.core.pc + 4, wait := .none } })) ∧
    (s.core.streams[q] = none → Completes (.strmend q) s (fun t => Went s t (s.core.pc + 4))) ∧
    (∀ (a : SReg) (l : BitVec 40) (key : Nat), s.core.vmq = [] → tagged (s.sreg a) = .loc l → localCheck s l = .ok (.bytes key) →
      alignedTo (s.sreg a) 8 = true → touchesPoison s.locPoison key 8 = false →
      (∀ (sc : Scope) (y : RegLit), s.core.wait = .none →
        let p := (chargeLocal s key 8 false).part
        ((regLitVal s y).toNat ≤ s.loc.readN key 8 → Completes (.ccwait sc a y) s
          (fun t => Went { s with part := p } t (s.core.pc + BitVec.ofNat 64 (regLitLen y)))) ∧
        (s.loc.readN key 8 < (regLitVal s y).toNat → exec (.ccwait sc a y) s =
          .next { s with part := p, core := { s.core with wait := .counter key true (regLitVal s y) false } })) ∧
      (∀ (d : SReg) (y : CcSrc), Quiet s → Completes (.ccadd d a y) s (fun t =>
        Stored s.loc t.loc key 8 ((s.loc.readN key 8 + (ccSrcVal s y).toNat) % 2 ^ 64) ∧ t.mem = s.mem ∧
        CoresKept s t (s.core.after d (BitVec.ofNat 64 (s.loc.readN key 8)) (ccSrcLen y))))) ∧
    (∀ (a : SReg) (g : Word) (x : Xl), Quiet s → s.core.vmq = [] → tagged (s.sreg a) = .gen g → g.extractLsb' 48 16 = 0 →
      alignedTo (s.sreg a) 8 = true → touchesPoison s.poison (memKey s.part x.pa) 8 = false → aliasDirty s (lineOf x.pa) = false →
      let old := s.mem.readN (memKey s.part x.pa) 8
      (∀ (sc : Scope) (y : RegLit), s.core.wait = .none → s.check .load g = .ok x →
        ((regLitVal s y).toNat ≤ old → Completes (.ccwait sc a y) s (fun t => t.core.wait = .none ∧ MemoryKept s t ∧
          CoresKept s t { s.core with pc := s.core.pc + BitVec.ofNat 64 (regLitLen y) } ∧ ClusterRegsKept s t)) ∧
        (old < (regLitVal s y).toNat → Completes (.ccwait sc a y) s (fun t => MemoryKept s t ∧ CoresKept s t s.core ∧
          t.core.wait = .counter (memKey s.part x.pa) false (regLitVal s y) false ∧ ClusterRegsKept s t))) ∧
      (∀ (d : SReg) (y : CcSrc), s.check .atomic g = .ok x → Completes (.ccadd d a y) s (fun t =>
        Stored s.mem t.mem (memKey s.part x.pa) 8 ((old + (ccSrcVal s y).toNat) % 2 ^ 64) ∧ t.loc = s.loc ∧
        ClusterRegsKept s t ∧ CoresKept s t (s.core.after d (BitVec.ofNat 64 old) (ccSrcLen y))))) ∧
    (∀ (sc : Scope) (a : SReg) (y : RegLit) (k : Nat) (l : Bool) (v : Word), s.core.wait = .counter k l v true →
      ((s.sreg a).getLsbD 63 = false → ∀ i : Fin 2, watchMatches s.core i (s.sreg a) 8 false = false) →
      Completes (.ccwait sc a y) s (fun t => Went s t (s.core.pc + BitVec.ofNat 64 (regLitLen y))))

/-! ## Advice -/

/-- R116, R146, R244, R246 to R248, R250: what each instruction of the sequencer that reads no data changes: the sequencer's own
registers, its place, and nothing else, but for the table entries that a range of a.ins has loaded. -/
def Obligations.AdviceRegisters : Prop :=
  ∀ (s : State) (d a b : HReg),
    let g := s.core.adv
    (∀ (imm : BitVec 16) (p : Fin 4), ∃ v : Word, Advises (.aLi d imm p) s { g with h := g.h.set d v }.passed ∧
      v.extractLsb' (16 * p.val) 16 = imm ∧ ∀ q : Fin 4, q ≠ p → v.extractLsb' (16 * q.val) 16 = (g.h[d]).extractLsb' (16 * q.val) 16) ∧
    (∀ imm : BitVec 16, Advises (.aAdd d a b imm) s { g with h := g.h.set d (g.h[a] + g.h[b] + imm.signExtend 64) }.passed) ∧
    Advises (.aMul d a b) s { g with h := g.h.set d (g.h[a] * g.h[b]) }.passed ∧
    Advises (.aAnd d a b) s { g with h := g.h.set d (g.h[a] &&& g.h[b]) }.passed ∧
    (∀ n : BitVec 6, Advises (.aShr d a n) s { g with h := g.h.set d (g.h[a] >>> n) }.passed) ∧
    Advises (.aRdstrip d) s { g with h := g.h.set d g.snapshot }.passed ∧
    (∀ x : BitVec 11, Advises (.aJmp x) s { g with pc := BitVec.ofNat 13 (4 * x.toNat) } ∧
      ∀ c : ACond,
        let holds : Prop := match c with
          | .eq => g.h[a] = g.h[b]
          | .ne => g.h[a] ≠ g.h[b]
          | .ltn => (g.h[a]).toNat < (g.h[b]).toNat
          | .gen => (g.h[b]).toNat ≤ (g.h[a]).toNat
        (holds → Advises (.aB c a b x) s { g with pc := BitVec.ofNat 13 (4 * x.toNat) }) ∧
        (¬ holds → Advises (.aB c a b x) s g.passed)) ∧
    (∀ c n, Advises (.aAwait c n) s { g with st := .awaiting, awaitC := c, awaitS := n }) ∧
    Advises .aStop s { g with pc := g.pc + 4, st := .stopped, cause := 1 } ∧
    Advises .noAdviceInstruction s { g with st := .stopped, cause := 2 } ∧
    (∀ co codes, ∃ pend, Advises (.aMord co codes) s { g with mord := some (codes, co, pend) }.passed ∧
      (pend = true ↔ ∃ m ∈ s.core.mats, isPass m.ins = true)) ∧
    (∀ tile pri,
      let key : Word := if tile then g.h[a] &&& 0x3F else g.h[a]
      ∃ l, Advises (.aCpri tile a pri) s { g with cpri := l }.passed ∧ l.head? = some (tile, key, pri) ∧ l.length ≤ 8 ∧
        (∀ e ∈ l.tail, ¬ (e.1 = tile ∧ e.2.1 = key)) ∧
        ∀ e ∈ g.cpri, ¬ (e.1 = tile ∧ e.2.1 = key) → g.cpri.length < 8 → e ∈ l) ∧
    (g.h[b] = 0 → ∀ pos, Advises (.aIns pos a b) s { g with ins := [] }.passed) ∧
    (g.h[b] ≠ 0 → (g.h[b]).toNat ≤ 2097152 → advRangeOk s g.h[a] (g.h[b]).toNat = true → ∀ pos,
      Quiet s → NoAlias s →
      AdvisesOver (.aIns pos a b) s { g with ins := ((pos, g.h[a], (g.h[b]).toNat) :: g.ins).take 4 }.passed)

/-- R109, R112, R113, R115, R245, R249, R283: requests put in flight, a translation cached, an index read begun, returned and
dropped; an action counted as dropped once, however many of its requests are; the load of the buffer; no byte of memory
changes. Model: Which events there are and that each is one step is the model's choice (log 10). -/
def Obligations.AdviceMemory : Prop :=
  ∀ (s : State) (d a b : HReg),
    let g := s.core.adv
    let va := g.h[a]
    let n := (g.h[b]).toNat
    let m := min n 65536
    (∀ cc pos, n = 0 → Advises (.aPf cc pos a b) s g.passed) ∧
    (∀ cc pos, n ≠ 0 → advRangeOk s va m = true →
      Quiet s → NoAlias s → AdvisesOver (.aPf cc pos a b) s { g with
        acts := g.acts + 1
        reqs := g.reqs ++ (advLines s va.toNat m).map (fun l => (⟨g.acts + 1, l, pos, 0, s.core.vdid⟩ : AdvReq)) }.passed) ∧
    (∀ cc pos, n ≠ 0 → advRangeOk s va m = false → Completes (.aPf cc pos a b) s (fun t =>
      t = { s with core := { s.core with adv := g.passed
                                         advCnt := { s.core.advCnt with drop := t.core.advCnt.drop } } } ∧
      t.core.advCnt.drop.toNat = min 0xFFFF (s.core.advCnt.drop.toNat + 1))) ∧
    (∀ x, n ≠ 0 → (va.toNat + n - 1) / 2 ^ 16 = va.toNat / 2 ^ 16 → advRangeOk s va n = true →
      s.translate .any va = .ok x → Quiet s → NoAlias s → Completes (.aPft a b) s (fun t =>
        (tlbHit (getCl t s.cl).tlb s.core.vdid va.toNat).isSome = true ∧ MemoryKept s t ∧
        t.core = { s.core with adv := g.passed } ∧ ∀ c, c ≠ s.cl → (getCl t c).tlb = (getCl s c).tlb)) ∧
    (∀ w : Fin 4, alignedTo va (2 ^ w.val) = true → advRangeOk s va (2 ^ w.val) = true →
      Quiet s → NoAlias s →
      AdvisesOver (.aLdidx d a w) s { g with ldidx := some ⟨some d, va, 2 ^ w.val, 0, s.core.vdid⟩ }.passed) ∧
    (∀ w : Fin 4, alignedTo va (2 ^ w.val) = false ∨ advRangeOk s va (2 ^ w.val) = false → Completes (.aLdidx d a w) s (fun t =>
      t = { s with core := { s.core with adv := { g with h := g.h.set d 0, miss := true }.passed
                                         advCnt := { s.core.advCnt with drop := t.core.advCnt.drop, miss := t.core.advCnt.miss } } } ∧
      t.core.advCnt.drop.toNat = min 0xFFFF (s.core.advCnt.drop.toNat + 1) ∧
      t.core.advCnt.miss.toNat = min 0xFFFF (s.core.advCnt.miss.toNat + 1))) ∧
    (∀ (r : AdvRead) (x : Xl), g.ldidx = some r → r.age < 65536 → Quiet s →
      translateAt s s.cl s.core.tlb r.vdid .load r.addr = .ok x →
      pageState s.coh (lineOf x.pa * 128) ≠ .host → frameClosed s.coh (lineOf x.pa * 128) = false → s.coh.persist = [] →
      touchesPoison s.poison (memKey s.part (lineOf x.pa * 128)) 128 = false → (findLine (getCl s s.cl) (lineOf x.pa)).isSome = true →
      aliasDirty s (lineOf x.pa) = false →
      Advises .adviceReadReturn s { g with
        ldidx := none
        h := match r.d with
          | some e => g.h.set e (BitVec.ofNat 64 (s.mem.readN (memKey s.part x.pa) r.n))
          | none => g.h }) ∧
    (∀ (r : AdvRead) (e : HReg), g.ldidx = some r → r.d = some e → 65536 ≤ r.age → Completes .adviceRequestTimeout s (fun t =>
      t.core.adv = { g with ldidx := none, h := g.h.set e 0, miss := true } ∧ MemoryKept s t ∧
      t.core.advCnt.drop.toNat = min 0xFFFF (s.core.advCnt.drop.toNat + 1) ∧
      t.core.advCnt.miss.toNat = min 0xFFFF (s.core.advCnt.miss.toNat + 1))) ∧
    (∀ r : AdvReq, g.ldidx = none → g.reqs.find? (fun q => decide (65536 ≤ q.age)) = some r → r.vdid = s.core.vdid →
      Completes .adviceRequestTimeout s (fun t =>
        let once := r.act ∈ g.skipped
        t.core.adv = { g with
          reqs := g.reqs.erase r
          skipped := (if once then g.skipped else g.skipped ++ [r.act]).filter (fun n => (g.reqs.erase r).any (fun q => q.act == n)) } ∧
        MemoryKept s t ∧ t.core.advCnt.drop.toNat = if once then s.core.advCnt.drop.toNat else min 0xFFFF (s.core.advCnt.drop.toNat + 1))) ∧
    (∀ (u : State) (l : List Byte), Quiet s → NoAlias s → g.st = .loading → g.aentry.extractLsb' 0 2 = 0 →
      readRegion 256 (g.aentry &&& ~~~0x1FFF) s [] = .ok u l → tableOk { g with buffer := l } = true →
      Completes .adviceLoadComplete s (fun t =>
        t.core = { s.core with adv := { g with buffer := l, st := .running, pc := g.aentry.extractLsb' 0 13 } } ∧
        MemoryKept s t ∧ l.length = 8192)) ∧
    (g.st = .loading → g.aentry.extractLsb' 0 2 ≠ 0 ∨ readRegion 256 (g.aentry &&& ~~~0x1FFF) s [] = .fail →
      Advises .adviceLoadComplete s { g with st := .stopped, cause := 3, barred := true })

/-! ## Windows, scheduling, rates -/

/-- R261, R272, R273, R288, R289, R296: what each command of a window does when it is carried out, and codes it answers. Model:
That a command is carried out in one step is the model's choice (log 25). -/
def Obligations.CommandWindows : Prop :=
  ∀ (s : State) (j : Fin 16), Quiet s → NoAlias s → s.coh.persist = [] → s.coh.hand.status ≠ 1 →
    let pn := winPart s.part j
    (∀ (pa : Word) (raw rate : Nat), pa.toNat % 512 = 0 → spanOk s.part pn.val pa.toNat 512 = true →
      homeRead s pa.toNat 512 = (raw, false) →
      let d := parseVd raw (BitVec.ofNat 4 pn.val) (parseRate rate) none
      (1 < recField raw 1 1 → OnlyAnswers (.installVirtualDeviceRecord j pa) s j 1 pa none 1) ∧
      (recField raw 1 1 = 1 → vdFieldsOk raw = true → spanOk s.part pn.val (recField raw 0x010 8) 128 = true →
        homeRead s (recField raw 0x010 8) 128 = (rate, false) → findVd s.part d.vdid = none →
        rateOk (maskCores ((s.part.vds.filter (fun x => x.part == d.part)).foldl (fun m x => m ||| x.shared) d.shared)).length rate = true →
        sumsOk s.part.vds d = true →
        (coresBad s.part pn d = true → OnlyAnswers (.installVirtualDeviceRecord j pa) s j 1 pa none 2) ∧
        (coresBad s.part pn d = false → s.part.vds.any (clashes d) = true →
          OnlyAnswers (.installVirtualDeviceRecord j pa) s j 1 pa none 3) ∧
        (coresBad s.part pn d = false → s.part.vds.any (clashes d) = false →
          Completes (.installVirtualDeviceRecord j pa) s (fun t => Answered s t j 1 pa none 0 ∧ t.part.vds = s.part.vds ++ [d] ∧
            (∀ i : Fin 1024, (d.excl ||| d.shared).getLsbD i.val = true → (t.getCore i).xmask = d.xdef.extractLsb' 0 12) ∧
            (∀ c, ∀ e ∈ (getCl t c).tlb, e.vdid ≠ d.vdid) ∧ (∀ c ∈ t.cores, ∀ e ∈ c.tlb, e.vdid ≠ d.vdid) ∧ MemoryKept s t)))) ∧
    (∀ (va vdid : Word) (pid tid : BitVec 32), findVd s.part (vdid.extractLsb' 0 6) = none →
      OnlyAnswers (.launchCommand j va vdid pid tid) s j 2 va (some vdid) 4) ∧
    (∀ (va vdid : Word) (pid tid : BitVec 32) (v : Vd) (raw : Nat), findVd s.part (vdid.extractLsb' 0 6) = some v →
      v.part.toNat = pn.val → alignedTo va 64 = true → readPieces s (vdCheck s v .load) (vdCluster v) 4 va = .ok raw →
      (v.queues[(parseRecord raw).prio]).length < 64 → recordOk raw = true → canPlace v (parseRecord raw) = true →
      (parseRecord raw).fin = 0 → (∀ x ∈ (parseRecord raw).deps, x.1 = 0) → countLive s.part v v.count = false →
      Completes (.launchCommand j va vdid pid tid) s (fun t =>
        Answered s t j 2 ((v.vdid ++ BitVec.ofNat 26 v.count).zeroExtend 64) (some vdid) 0 ∧ t.mem = s.mem ∧
        ∃ v' l, findVd t.part v.vdid = some v' ∧ v'.queues[(parseRecord raw).prio] = v.queues[(parseRecord raw).prio] ++ [l] ∧
          l.cgid = v.vdid ++ BitVec.ofNat 26 v.count ∧ l.lr = parseRecord raw ∧ l.pid = pid ∧ l.tid = tid)) ∧
    (∀ (pa : Word) (h : Nat),
      let n := recField h 8 2
      let l := (List.range n).map (fun i => homeRead s (pa.toNat + 16 + 8 * i) 8)
      spanOk s.part pn.val pa.toNat 16 = true → homeRead s pa.toNat 16 = (h, false) → recWord h 0 ≠ 0 → n ≠ 0 → n ≤ 4096 →
      recField h 0x0A 6 = 0 → spanOk s.part pn.val pa.toNat (16 + 8 * n) = true → (∀ x ∈ l, x.2 = false ∧ x.1 < 2 ^ 34) →
      (findColl s.part (recWord h 0) ≠ none → OnlyAnswers (.registerCollective j pa) s j 3 pa none 2) ∧
      (findColl s.part (recWord h 0) = none → s.part.colls.length < 256 → Completes (.registerCollective j pa) s (fun t =>
        Answered s t j 3 pa none 0 ∧ t.part.colls = s.part.colls ++
          [⟨recWord h 0, n, l.map (fun x => (BitVec.ofNat 24 x.1, x.1 / 2 ^ 24))⟩]))) ∧
    (∀ id : Word,
      (findColl s.part id = none → OnlyAnswers (.unregisterCollective j id) s j 4 id none 2) ∧
      (findColl s.part id ≠ none → isJoined s id = true → OnlyAnswers (.unregisterCollective j id) s j 4 id none 4) ∧
      (findColl s.part id ≠ none → isJoined s id = false → Completes (.unregisterCollective j id) s (fun t =>
        Answered s t j 4 id none 0 ∧ findColl t.part id = none ∧ ∀ i, i ≠ id → findColl t.part i = findColl s.part i))) ∧
    (∀ (pa slot : Word), slot.toNat ≤ 63 → spanOk s.part pn.val pa.toNat 32 = true →
      (∀ k ∈ s.part.keys, k.slot = slot.toNat → k.part = BitVec.ofNat 4 pn.val) → Completes (.installDumpKey j pa slot) s (fun t =>
        Answered s t j 5 pa (some slot) 0 ∧ t.mem = s.mem ∧ ∀ k, k ∈ t.part.keys ↔ (k ∈ s.part.keys ∧ k.slot ≠ slot.toNat) ∨
          k = ⟨slot.toNat, homeReadList s pa.toNat 32, BitVec.ofNat 4 pn.val⟩)) ∧
    (∀ mode : Word,
      (1 < mode.toNat → OnlyAnswers (.clockMode j mode) s j 6 mode none 1) ∧
      (mode.toNat ≤ 1 → (s.part.parts[pn]).clock = false → OnlyAnswers (.clockMode j mode) s j 6 mode none 4) ∧
      (mode = 1 → (s.part.parts[pn]).clock = true → Completes (.clockMode j mode) s (fun t =>
        t.part.lockedClock = true ∧ (∀ d : Fin 4, (t.part.dies[d]).freq = (s.part.dies[d]).freq) ∧
        (s.part.lockedClock = false → (∀ c ∈ t.cores, c.alcCur = liveLanes c.lmap ∧ c.gated = false) ∧
          ∀ d : Fin 4, (t.part.dies[d]).target = 20 ∧ (t.part.dies[d]).phase ≠ .halving) ∧
        ((∀ d : Fin 4, (s.part.dies[d]).freq = 20) → Answered s t j 6 1 none 0) ∧
        ((∃ d : Fin 4, (s.part.dies[d]).freq ≠ 20) → (t.part.windows[j]).st = 1 ∧ (t.part.windows[j]).code = 0 ∧
          j ∈ t.part.winQueue ∧ ∀ k : Fin 16, k ≠ j → t.part.windows[k] = s.part.windows[k]))) ∧
      (mode = 0 → (s.part.parts[pn]).clock = true → s.part.lockedClock = true → Completes (.clockMode j mode) s (fun t =>
        Answered s t j 6 0 none 0 ∧ t.part.lockedClock = false ∧ t.part.dies = s.part.dies ∧ CoresKept s t s.core)) ∧
      (mode = 0 → (s.part.parts[pn]).clock = true → s.part.lockedClock = false → OnlyAnswers (.clockMode j mode) s j 6 0 none 0))

/-- R32 to R35, R252, R255, R256: the one eligible head that can be placed is sent; its packet starts its cores; the next wave is
sent when one has ended; a killed group's finish counter takes the fault add, and its cores are free. Model: Which events
there are and that each is one step is the model's choice (log 10). -/
def Obligations.GroupsStart : Prop :=
  ∀ (s : State),
    (∀ (d : Vd) (p : Fin 8) (l : Launch) (q : List Launch), s.part.vds = [d] → d.queues[p] = l :: q →
      (∀ i : Fin 8, i ≠ p → d.queues[i] = []) → (∀ i : Fin 8, d.resume[i] = []) → s.deps = [] →
      let cores := ((assignWave l.lr (freeFor s d) 0).1).map (·.2)
      cores ≠ [] → Completes .selectionSlot s (fun t =>
        t.part.packets = s.part.packets ++ [⟨l.cgid, 0, false, 0xF⟩] ∧
        findVd t.part d.vdid = some { d with queues := d.queues.set p q } ∧ t.core = s.core ∧ t.rest = s.rest ∧
        ∃ g, t.part.groups = s.part.groups ++ [g] ∧ g.cgid = l.cgid ∧ g.vdid = d.vdid ∧ g.lr = l.lr ∧ g.mask = coreMask cores ∧
          g.wave = 0 ∧ g.first = 0 ∧ g.st = .running)) ∧
    (∀ (k : Packet) (g : Group) (d : Vd) (die : Fin 4), packetDie s.part = some die →
      s.part.packets.find? (fun x => x.dies.getLsbD die.val) = some k → findGroup s.part k.cgid = some g → g.killed = false →
      let left := k.dies &&& ~~~(BitVec.twoPow 4 die.val)
      let sent (t : State) : Prop := t.part.packets = if left = 0 then s.part.packets.erase k
        else s.part.packets.map (fun x => if x = k then { x with dies := left } else x);
      (k.restore = true → Completes .launchPacket s (fun t => sent t ∧
        findGroup t.part k.cgid = some (if left = 0 then { g with st := .restoring } else g) ∧ t.core = s.core)) ∧
      (k.restore = false → findVd s.part g.vdid = some d →
        let r := assignWave g.lr (maskCores g.mask) g.first
        (r.1.map (·.2)).Nodup → (∀ x ∈ r.1, x.2 < 1024) → Completes .launchPacket s (fun t => sent t ∧
          ((∀ x ∈ r.1, x.2 / 256 = die.val → wantsScrub s d x.2 = false) → t.loc = s.loc) ∧ t.mem = s.mem ∧
          (∃ g', findGroup t.part k.cgid = some g' ∧ g'.wave = k.wave ∧ g'.first = (if left = 0 then r.2 else g.first) ∧
            (k.dies = 0xF → g'.live = r.1.length)) ∧
          (left ≠ 0 → ∀ i : Fin 1024, (∀ x ∈ r.1, x.2 / 256 = die.val → x.2 ≠ i.val) →
            (t.getCore i).calm = (s.getCore i).calm) ∧
          ∀ x ∈ r.1, x.2 / 256 = die.val → let c := t.getCore (Fin.ofNat 1024 x.2)
            c.run = .running ∧ c.view = .u ∧ c.pc = g.lr.sentry ∧ c.cgid = g.cgid ∧ c.vdid = g.vdid ∧ c.s[0] = 0 ∧
            c.s[1] = g.lr.args ∧ c.s[2] = BitVec.ofNat 64 x.1 ∧ c.s[3] = BitVec.ofNat 64 k.wave ∧
            c.s[4] = BitVec.ofNat 64 (g.lr.gx * g.lr.gy * g.lr.gz) ∧
            (∀ j : Fin 8, c.s[j.val + 5] = BitVec.ofNat 64 (((levelCoords x.1 g.lr.levels)[j.val]?).getD 0)) ∧
            c.s[13] = BitVec.ofNat 64 (x.1 % g.lr.gx) ∧ c.s[14] = BitVec.ofNat 64 (x.1 / g.lr.gx % g.lr.gy) ∧
            c.s[15] = BitVec.ofNat 64 (x.1 / (g.lr.gx * g.lr.gy)) ∧ (∀ i : Fin 64, 15 < i.val → c.s[i] = 0) ∧
            c.poisonV = BitVec.allOnes 32 ∧ c.m = Vector.replicate 8 0 ∧ c.k = Vector.replicate 16 0 ∧
            c.vl = 0 ∧ c.stripBase = 0 ∧ c.stripNext = 0 ∧ c.rm = 0 ∧ c.seed = 0 ∧ c.resync = 0 ∧ c.team = false ∧
            (∀ q : Fin 4, c.vq[q] = []) ∧ c.q4 = [] ∧ c.q5 = [] ∧ c.q6 = [] ∧ c.q7 = [] ∧ c.viq = [] ∧ c.vmq = [] ∧ c.defer = [] ∧
            (∀ e : TSlot, (c.tiles[e]).st = .empty) ∧ c.copies = [] ∧ (∀ q : Fin 4, c.streams[q] = none) ∧ c.mats = [] ∧
            c.want = 0 ∧ c.acc = 0 ∧ c.lanes = 0 ∧
            ((s.getCore (Fin.ofNat 1024 x.2)).run = .off → c.adv.aentry = g.lr.aentry ∧ c.adv.ctab = g.lr.ctab ∧
              c.adv.st = if g.lr.aentry = 0 then .off else .loading)))) ∧
    (∀ g : Group, findGroup s.part g.cgid = some g → wantsWave g = true → (∀ k ∈ s.part.packets, k.cgid ≠ g.cgid) →
      Completes (.nextWave g.cgid) s (fun t =>
        t = { s with part := { s.part with packets := s.part.packets ++ [⟨g.cgid, g.wave + 1, false, 0xF⟩] } })) ∧
    (∀ g : Group, findGroup s.part g.cgid = some g → g.killed = true → recsOf s.part g.vdid false ≠ [] →
      exec (.killFinishAdd g.cgid) s = .next s) ∧
    (∀ g : Group, findGroup s.part g.cgid = some g → g.killed = true → recsOf s.part g.vdid false = [] → Quiet s →
      let gone (t : State) : Prop := (∀ x ∈ t.part.groups, x.cgid ≠ g.cgid) ∧ (∀ x ∈ t.part.packets, x.cgid ≠ g.cgid) ∧
        ∀ c ∈ t.cores, c.cgid = g.cgid → c.run = .off;
      (g.lr.fin = 0 → Completes (.killFinishAdd g.cgid) s (fun t => gone t ∧ MemoryKept s t)) ∧
      (∀ (d : Vd) (x : Xl), g.lr.fin ≠ 0 → findVd s.part g.vdid = some d → vdCheck s d .store g.lr.fin = .ok x →
        touchesPoison s.poison (memKey s.part x.pa) 8 = false → aliasDirty s (lineOf x.pa) = false →
        Completes (.killFinishAdd g.cgid) s (fun t => gone t ∧
          Stored s.mem t.mem (memKey s.part x.pa) 8 ((s.mem.readN (memKey s.part x.pa) 8 + 0x8000000000000001) % 2 ^ 64))))

/-- R44, R45, R252, R410: a core yields when its strip's budget has run out; a group whose only core has yielded is saved, with
the core's registers, and joins its resume list; a restore puts them back. Model: Which events there are and that each is one
step is the model's choice (log 10). -/
def Obligations.GroupsYield : Prop :=
  ∀ (s : State) (g : Group) (d : Vd), findGroup s.part g.cgid = some g → findVd s.part g.vdid = some d → s.core.cgid = g.cgid →
    (∀ c ∈ s.rest, inGroup g.cgid c = false) →
    (g.preempt = true → s.core.run = .running → s.core.view ≠ .s → s.core.held = false → s.core.wait = .none →
      (g.stopped = true ∨ (if g.lr.budget = 0 then d.budget else g.lr.budget) * 1000 ≤ s.core.stripNs) →
      Completes .stripBudgetExpiry s (fun t => t.core = { s.core with run := .yielded } ∧ MemoryKept s t ∧
        findGroup t.part g.cgid = some { g with st := .saving })) ∧
    (g.preempt = true → s.core.run = .running → s.core.view ≠ .s → s.core.held = false → g.stopped = false →
      s.core.stripNs < (if g.lr.budget = 0 then d.budget else g.lr.budget) * 1000 → exec .stripBudgetExpiry s = .next s) ∧
    (s.core.view = .s ∨ s.core.held = true → exec .stripBudgetExpiry s = .next s) ∧
    (g.st = .saving → s.core.run = .yielded → s.core.dbg.st = .running → (∃ m ∈ s.core.mats, m.bs ≠ []) →
      exec (.preemptionSaveComplete g.cgid) s = .next s) ∧
    (g.killed = false → g.st = .saving → s.core.run = .yielded → (standing (activate s s.core.index)).isSome = true →
      (∀ m ∈ s.core.mats, m.bs = []) →
      Completes (.preemptionSaveComplete g.cgid) s (fun t =>
      t.core.run = .off ∧ t.core.copies = [] ∧ t.core.viq = [] ∧ t.core.vmq = [] ∧ t.core.acc = 0 ∧
      (∃ c v', findGroup t.part g.cgid = some { g with
          st := .saved, preempt := false, saved := [c], kept := ((findGroup t.part g.cgid).map (·.kept)).getD []
          keptPoison := ((findGroup t.part g.cgid).map (·.keptPoison)).getD [] } ∧
        c.index = s.core.index ∧ c.s = s.core.s ∧ c.v = s.core.v ∧ c.k = s.core.k ∧ c.m = s.core.m ∧ c.pc = s.core.pc ∧
        c.q6 = s.core.q6 ∧ c.defer = s.core.defer ∧ c.z = s.core.z ∧ c.poisonV = s.core.poisonV ∧
        findVd t.part g.vdid = some v' ∧ v'.resume[g.lr.prio] = d.resume[g.lr.prio] ++ [g.cgid]))) ∧
    (∀ (c : Core) (key : Nat) (l : List Byte), g.st = .restoring → g.saved = [c] → g.kept = [(key, l)] → g.keptPoison = [] →
      Completes (.restoreComplete g.cgid) s (fun t =>
        let x := t.getCore c.index
        x.run = (if c.run = .yielded then .running else c.run) ∧ x.pc = c.pc ∧ x.s = c.s ∧ x.v = c.v ∧ x.m = c.m ∧ x.k = c.k ∧
        x.vl = c.vl ∧ x.stripBase = c.stripBase ∧ x.stripNext = c.stripNext ∧ x.q6 = c.q6 ∧ x.z = c.z ∧ x.acc = c.acc ∧ x.lanes = 0 ∧
        (∀ i b, l[i]? = some b → t.loc.read (key + i) = b) ∧
        findGroup t.part g.cgid = some { g with st := .running, saved := [], kept := [], keptPoison := [] }))

/-- R261 to R264, R267: a unit granted to the request that stands first in the order of R264 is drawn from its own bucket in class
3 or 5 and from the pool in class 4, and more units one by one; work of class 1, 2 or 6 takes a bucket down to -D and no
further, the rest forgiven; at a window's end the sample is written, the counts start again and the installed record is in
force, the refill going on from there. Model: Which events there are and that each is one step is the model's choice (log 10). -/
def Obligations.ArbiterRates : Prop :=
  ∀ (s : State) (kind inst vdid : Nat),
    let v := BitVec.ofNat 6 vdid
    let p := s.part
    (∀ (b : Bucket) (units : Nat), findBucket p kind inst v = some b → ∀ cls ∈ ([1, 2, 6] : List Nat),
      Completes (.arbiterGrant kind inst vdid cls units) s (fun t => ∃ n, n ≤ units ∧
        t = { s with part := { p with buckets := t.part.buckets } } ∧
        findBucket t.part kind inst v = some { b with
          level := b.level - 1024 * n, own := b.own + n, forgiven := b.forgiven + (units - n) } ∧
        (n ≠ 0 → -(1024 * (b.depth : Int)) ≤ b.level - 1024 * n) ∧
        (n < units → b.level - 1024 * (n + 1) < -(1024 * (b.depth : Int))) ∧
        ∀ k i w, ¬ (k = kind ∧ i = inst ∧ w = v) → findBucket t.part k i w = findBucket p k i w)) ∧
    (∀ (i : Nat) (r : ArbReq), nextReq p kind inst = some (i, r) →
      p.areqs[i]? = some r ∧ r.kind = kind ∧ r.inst = inst ∧ ∃ c, reqClass p r = some c ∧
        (∀ j q c', p.areqs[j]? = some q → q.kind = kind → q.inst = inst → reqClass p q = some c' →
          c ≤ c' ∧ (c' = c →
            (c = 3 → (p.areqs.filter (fun x => x.kind == kind && x.inst == inst)).Pairwise (fun x y => x.time ≤ y.time) →
              r.time ≤ q.time ∧ (q.time = r.time → r.vdid ≤ q.vdid ∧ (q.vdid = r.vdid → i ≤ j))) ∧
            (c = 4 → workPrio q.work ≤ workPrio r.work ∧ (workPrio q.work = workPrio r.work → i ≤ j)) ∧
            (c = 5 → i ≤ j))) ∧
        (r.vdid = v → Completes (.arbiterGrant kind inst vdid c 1) s (fun t =>
          t = { s with part := { p with buckets := t.part.buckets, pools := t.part.pools, areqs := t.part.areqs } } ∧
          t.part.areqs = (if r.units ≤ 1 then p.areqs.eraseIdx i else p.areqs.set i { r with units := r.units - 1 }) ∧
          (c ≠ 4 → poolOf t.part kind inst = poolOf p kind inst ∧ ∀ b, findBucket p kind inst v = some b →
            findBucket t.part kind inst v = some { b with level := b.level - 1024, own := b.own + 1 }) ∧
          (c = 4 → poolOf t.part kind inst = poolOf p kind inst - 1024 ∧ ∀ b, findBucket p kind inst v = some b →
            findBucket t.part kind inst v = some { b with lent := b.lent + 1 })))) ∧
    (∀ cls units : Nat, cls ∉ ([1, 2, 6] : List Nat) →
      (∃ u, exec (.arbiterGrant kind inst vdid cls 1) s = .next u ∧
        exec (.arbiterGrant kind inst vdid cls (units + 1)) s = exec (.arbiterGrant kind inst vdid cls units) u) ∧
      ((∀ i r, nextReq p kind inst = some (i, r) → ¬ (r.vdid = v ∧ reqClass p r = some cls)) →
        exec (.arbiterGrant kind inst vdid cls units) s = .next s)) ∧
    (windowsEnded p kind inst ≤ (getPool p kind inst).window → exec (.arbiterWindow kind inst) s = .next s) ∧
    (∀ (d : Vd) (b : Bucket), (getPool p kind inst).window < windowsEnded p kind inst → findVd p v = some d →
      findBucket p kind inst v = some b →
      ((∀ x ∈ p.vds, x.rate.status = 0) → ∀ k : Fin 7, k.val = kind →
        let stand := max b.upTo (min (arbClock p kind inst) (1024 * ((getPool p kind inst).window + 2)))
        let top : Int := d.rate.depth[k] * 1024
        (kind = 6 → stand = b.upTo) →
        Completes (.arbiterWindow kind inst) s (fun t => MemoryKept s t ∧ t.core = s.core ∧ t.rest = s.rest ∧
          findBucket t.part kind inst v = some { b with
            guaranteed := d.rate.guaranteed, rate := d.rate.rate[k], depth := d.rate.depth[k]
            level := min top (min b.level top + d.rate.rate[k] * (stand - b.upTo)), own := 0, lent := 0, forgiven := 0, upTo := stand } ∧
          (getPool t.part kind inst).window = (getPool p kind inst).window + 1)) ∧
      (∀ (j : Fin 4) (x : Xl), Quiet s → aliasDirty s (lineOf x.pa) = false → p.vds = [d] → d.rate.status ≠ 0 →
        (∀ i : Fin 4, selects d (d.rate.slots[i]).1 kind inst = decide (i = j)) →
        vdCheck s d .store (d.rate.status + BitVec.ofNat 64 (32 * j.val)) = .ok x →
        Completes (.arbiterWindow kind inst) s (fun t =>
          let key := memKey p x.pa
          (∀ k, (k < key ∨ key + 32 ≤ k) → t.mem.read k = s.mem.read k) ∧
          t.mem.readN key 4 = (getPool p kind inst).window % 2 ^ 32 ∧
          BitVec.ofNat 32 (t.mem.readN (key + 4) 4) = BitVec.ofInt 32 (Int.fdiv b.level 1024) ∧
          t.mem.readN (key + 8) 4 = b.own % 2 ^ 32 ∧ t.mem.readN (key + 12) 4 = b.lent % 2 ^ 32 ∧
          t.mem.readN (key + 16) 4 = b.forgiven % 2 ^ 32 ∧ t.mem.readN (key + 20) 12 = 0)))

/-! ## Coherence from outside the core -/

/-- R91 to R95, R97 to R99, R102, R104, R291, R377 to R379: requests delivered and refused, tokens moved and recalled, lines
granted, collected and merged, W lines written home, and accesses from outside. Model: Which events there are and that each is
one step is the model's choice (log 10). -/
def Obligations.CoherenceEvents : Prop :=
  ∀ (s : State) (line : Nat), Quiet s → aliasDirty s line = false →
    let key := memKey s.part (line * 128)
    let frame := pageState s.coh (line * 128)
    let open_ := frame ≠ .host ∧ frameClosed s.coh (line * 128) = false
    let free (gw : Fin 5) (n : Nat) : Prop := (∀ r ∈ s.coh.reqs, ¬ (r.gw = gw ∧ r.line = n)) ∧ persists s gw n = false
    let room (c : Fin 128) (n : Nat) : Prop := linesInSet (getCl s c) (setOf n) < cacheWays (getCl s c)
    -- a request performed: its cluster holds the line, alone and in M for a write
    let done (t : State) (cl : Option (Fin 128)) (n : Nat) (write : Bool) : Prop := MemoryKept s t ∧ t.core = s.core ∧
      ∀ c, cl = some c → (room c n ∨ (findLine (getCl s c) n).isSome = true) → ∃ l, findLine (getCl t c) n = some l ∧
        (write = true → l.st = .m ∧ ∀ d, d ≠ c → findLine (getCl t d) n = none);
    (∀ c : Fin 128,
      let g := (clusterDie c).val
      (open_ → free (dieGw c) line → room c line → findLine (getCl s c) line = none → 1 ≤ tokensAt s line g →
        Completes (.pelotonDelivery c.val line .read) s (fun t => MemoryKept s t ∧ t.core = s.core ∧
          (∃ l, findLine (getCl t c) line = some l ∧ l.st ≠ .m ∧ l.vdid = s.core.vdid) ∧
          (∀ d, d ≠ c → ∀ l, findLine (getCl t d) line = some l → l.st = .s) ∧ ∀ n p, tokensAt t n p = tokensAt s n p)) ∧
      (open_ → free (dieGw c) line → (room c line ∨ (findLine (getCl s c) line).isSome = true) → frame ≠ .readOnly →
        tokensAt s line g = 16 → Completes (.pelotonDelivery c.val line .write) s (fun t => MemoryKept s t ∧ t.core = s.core ∧
          (∃ l, findLine (getCl t c) line = some l ∧ l.st = .m ∧ l.vdid = s.core.vdid) ∧
          (∀ d, d ≠ c → findLine (getCl t d) line = none) ∧ ∀ p, tokensAt t line p = if p = g then 16 else 0)) ∧
      (∀ write : Bool, open_ → (write = true → frame ≠ .readOnly) →
        (free (dieGw c) line ∧ findLine (getCl s c) line = none ∧ tokensAt s line g = 0) ∨
          ((∃ r ∈ s.coh.reqs, r.gw = dieGw c ∧ r.line = line) ∧
            ∀ r ∈ s.coh.reqs, ¬ (r.gw = dieGw c ∧ r.line = line ∧ r.cl = some c ∧ r.write = write)) →
        Completes (.pelotonDelivery c.val line (if write then .write else .read)) s (fun t => t = { s with coh := { s.coh with
          refusals := t.coh.refusals, reqs := s.coh.reqs ++ [⟨dieGw c, some c, s.core.vdid, line, write, 0, 0, groupWork s.part s.core.cgid⟩] } }))) ∧
    (∀ cl : Nat,
      let mine (r : Nat × Nat × Nat) : Bool := r.1 == cl && r.2.1 == line
      let n := ((s.coh.refusals.find? mine).map (fun r => r.2.2)).getD 0
      (n < 8 → Completes (.pelotonRefusal cl line) s (fun t => t = { s with coh := { s.coh with
        refusals := s.coh.refusals.filter (fun r => !mine r) ++ [(cl, line, n + 1)] } })) ∧
      (8 ≤ n → Completes (.pelotonRefusal cl line) s (fun t => t.part.fatalHeld = true ∧ ∀ g ∈ t.part.groups, g.killed = true))) ∧
    (∀ gw : Fin 5,
      let asked (t : State) (write : Bool) : Prop := ((∃ r ∈ s.coh.reqs, r.gw = gw ∧ r.line = line) → t.coh.reqs = s.coh.reqs) ∧
        ((∀ r ∈ s.coh.reqs, ¬ (r.gw = gw ∧ r.line = line)) →
          t.coh.reqs = s.coh.reqs ++ [⟨gw, none, s.core.vdid, line, write, 0, 0, .coherence⟩]);
      let answered := barredBy s gw line = false ∧ frameClosed s.coh (line * 128) = false
      (frame = .readOnly → exec (.transientRequest gw line true) s = .next s) ∧
      (frame ≠ .readOnly → answered → Completes (.transientRequest gw line true) s (fun t => MemoryKept s t ∧
        asked t true ∧ (∀ p, tokensAt t line p = if p = gw.val then 16 else 0) ∧
        ∀ d, (clusterDie d).val ≠ gw.val → findLine (getCl t d) line = none)) ∧
      ((findTok s.coh line).owner ≤ 5 → 1 ≤ tokensAt s line (findTok s.coh line).owner → answered →
        Completes (.transientRequest gw line false) s (fun t => MemoryKept s t ∧ asked t false ∧ 1 ≤ tokensAt t line gw.val ∧
          tokTotal (findTok t.coh line) = tokTotal (findTok s.coh line) ∧
          ∀ d, tokensAt t line (clusterDie d).val = 0 → findLine (getCl t d) line = none)) ∧
      (¬ answered → ∀ write : Bool, (write = true → frame ≠ .readOnly) → Completes (.transientRequest gw line write) s (fun t =>
        t = { s with coh := { s.coh with reqs := t.coh.reqs } } ∧ asked t write))) ∧
    (∀ (gw : Fin 5) (r : TokReq), s.coh.reqs.find? (fun x => x.gw == gw && x.line == line) = some r →
      let holds := if r.write then tokensAt s line gw.val = 16 else 1 ≤ tokensAt s line gw.val
      let home : Fin 5 := Fin.ofNat 5 (homeOf s line)
      (open_ → (r.write = true → frame ≠ .readOnly) → holds → persists s gw line = false → (∀ x ∈ s.coh.reqs.erase r, ¬ (x.gw = gw ∧ x.line = line)) →
        Completes (.tokenResponse gw line) s (fun t => t.coh.reqs = s.coh.reqs.erase r ∧ done t r.cl line r.write ∧
          (r.cl = none → t = { s with coh := { s.coh with reqs := s.coh.reqs.erase r } }))) ∧
      (frameClosed s.coh (line * 128) = true → exec (.tokenResponse gw line) s = .next s) ∧
      (frameClosed s.coh (line * 128) = false → ¬ holds → persists s gw line = false → Completes (.tokenResponse gw line) s (fun t =>
        t = { s with coh := { s.coh with reqs := s.coh.reqs.map (fun x => if x = r then { x with fails := x.fails + 1 } else x) } })) ∧
      (3 ≤ r.fails ∨ 2048 ≤ r.edges → (∀ p ∈ s.coh.persist, ¬ (p.home = home ∧ p.gw = gw)) →
        Completes (.persistentEscalation gw line) s (fun t => t = { s with coh := { s.coh with
          reqs := s.coh.reqs.erase r
          persist := s.coh.persist ++ [⟨home, gw, r.cl, r.vdid, line, r.write, false, 0, r.work⟩] } }))) ∧
    (∀ p : Persist,
      let dist (x : Persist) : Nat := (x.gw.val + 5 - (s.coh.lastServed[p.home] + 1) % 5) % 5
      let kept := pageState s.coh (p.line * 128) = .readOnly
      let closed (q : Persist) : Bool := frameClosed s.coh (q.line * 128)
      p ∈ s.coh.persist → closed p = false →
      (∀ q ∈ s.coh.persist, q.home = p.home → q.active = false ∧ (q ≠ p → closed q = false → dist p < dist q)) →
      Completes (.persistentActivate p.home) s (fun t => MemoryKept s t ∧
        (∀ n, tokensAt t p.line n =
          if n = p.gw.val then (if kept then 15 else 16) else if n = 5 ∧ kept then 1 else 0) ∧
        (∀ d, (clusterDie d).val ≠ p.gw.val → findLine (getCl t d) p.line = none) ∧
        t.coh.persist = s.coh.persist.map (fun q => if q = p then { q with active := true } else q))) ∧
    (∀ p : Persist, s.coh.persist = [p] → p.active = true → aliasDirty s p.line = false → (tokTotal (findTok s.coh p.line) ≠ 16 ∨
        frameClosed s.coh (p.line * 128) = true) → exec (.persistentActivate p.home) s = .next s) ∧
    (∀ p : Persist, s.coh.persist = [p] → p.active = true → tokTotal (findTok s.coh p.line) = 16 → p.line = line → open_ →
      (p.write = true → frame ≠ .readOnly) →
      (∀ r ∈ s.coh.reqs, ¬ (r.gw = p.gw ∧ r.line = p.line)) → Completes (.persistentActivate p.home) s (fun t =>
        t.coh.persist = [] ∧ t.coh.lastServed[p.home] = p.gw.val ∧ done t p.cl p.line p.write)) ∧
    (∀ p ∈ s.coh.persist, p.line = line → 200000 ≤ p.ns → Completes (.persistentTimeout line) s (fun t =>
      (∀ n, tokensAt t line n = if n = 5 then 16 else 0) ∧ (∀ d, findLine (getCl t d) line = none) ∧ t.mem = s.mem ∧
      (tokTotal (findTok s.coh line) = 16 → t.poison = s.poison) ∧
      (tokTotal (findTok s.coh line) ≠ 16 → tokensAt s line (findTok s.coh line).owner = 0 → ∀ q, q < 4 → key / 32 + q ∈ t.poison))) ∧
    (∀ (c : Fin 128) (tag : UTag) (v : BitVec 6) (l : List UReq), s.coh.ureqs = ⟨c.val, line, tag, v⟩ :: l →
      (∀ p ∈ s.coh.persist, ¬ (p.active = true ∧ p.line = line)) →
      Completes .uRequest s (fun t => MemoryKept s t ∧ t.coh.ureqs = l ∧ t.coh.ugrants = s.coh.ugrants ++ [⟨c.val, line, tag, v⟩] ∧
        t.coh.urecs = [⟨line, tag, BitVec.twoPow 128 c.val, none, 0, none⟩] ∧ (∀ d, findLine (getCl t d) line = none) ∧
        ∀ n, tokensAt t line n = if n = 5 then 16 else 0)) ∧
    (∀ (party : BitVec 4) (port : Fin 4) (pa : Word) (w : Option (List Byte)) (i : Instr), s.coh.persist = [] →
      let key := memKey s.part pa.toNat
      let answers (a : Answer) : State := { s with part := { s.part with answers := s.part.answers ++ [a] } }
      (i = .hostAccess party pa w ∨ (i = .rootPortInboundRequest port pa w ∧
        paOk s.part (s.part.rootParts[port]).toNat pa.toNat = true)) → window s.part pa.toNat ≠ .absent →
      (frameClosed s.coh pa.toNat = true →
        exec i s = .next { s with coh := { s.coh with outside := s.coh.outside ++ [⟨if w.isNone then pa &&& ~~~0x1F else pa, w, 32⟩] } }) ∧
      (frameClosed s.coh pa.toNat = false →
        (∀ l, w = some l → pageState s.coh pa.toNat ≠ .readOnly →
          let n := (l.take 512).length
          pa.toNat % 4096 + n ≤ 4096 → (∀ j, j < n → aliasDirty s (lineOf (pa.toNat + j)) = false) → Completes i s (fun t =>
          ∀ k, t.mem.read k = if key ≤ k ∧ k < key + n then (l[k - key]?).getD 0 else s.mem.read k)) ∧
        (∀ l, w = some l → pageState s.coh pa.toNat = .readOnly → exec i s = .next (answers .completerAbort)) ∧
        (w = none → aliasDirty s (lineOf pa.toNat) = false → let k := memKey s.part (pa.toNat / 32 * 32)
          touchesPoison s.poison k 32 = false → Completes i s (fun t => MemoryKept s t ∧
            t.part = (answers (.bytes (s.mem.readList k 32))).part)))) ∧
    (∀ (port : Fin 4) (pa : Word) (w : Option (List Byte)), paOk s.part (s.part.rootParts[port]).toNat pa.toNat = false →
      exec (.rootPortInboundRequest port pa w) s = .next { s with part := { s.part with
        answers := s.part.answers ++ [.unsupportedRequest] } })

/-- R97 to R99, R102, R379: a grant reaches its cluster; slots are collected, and the tree and the memory step complete a merge; a
slot that does not answer costs the line; a W line is written home under its mask. Model: That a cluster's request for a line
in U is granted at once unless it is slow is the model's choice (log 11). -/
def Obligations.UpdatesMerge : Prop :=
  ∀ (s : State) (line : Nat),
    let key := memKey s.part (line * 128)
    (∀ (c : Fin 128) (v : BitVec 6) (y : UWait) (l : List UReq) (x : URec),
      s.coh.ugrants = ⟨c.val, line, y.tag, v⟩ :: l → findURec s.coh line = some x → x.tag = y.tag →
      x.presence.getLsbD c.val = true → x.merging = none → (∀ u ∈ (getCl s c).us, u.line ≠ line) →
      linesInSet (getCl s c) (setOf line) < cacheWays (getCl s c) → y.line = line → (getCl s c).uwaits = [y] →
      Completes .uGrant s (fun t => MemoryKept s t ∧
        t.coh = { s.coh with ugrants := l } ∧ (∀ d, d ≠ c → getCl t d = getCl s d) ∧ line ∈ (getCl t c).order ∧
        getCl t c = { getCl s c with
          us := (getCl s c).us ++ [applyUpdate ⟨line, y.tag, identityLine y.tag, 0, 0, y.vdid⟩ y.off y.val.toNat], uwaits := []
          order := (getCl t c).order })) ∧
    (∀ (c : Fin 128) (x : URec) (u : ULine), findURec s.coh line = some x → x.presence.getLsbD c.val = true →
      (getCl s c).us.find? (fun y => y.line == line) = some u → Completes (.mergeCollect c.val line) s (fun t => MemoryKept s t ∧
        (∀ y ∈ (getCl t c).us, y.line ≠ line) ∧ findURec t.coh line = some { x with
          presence := x.presence &&& ~~~(BitVec.twoPow 128 c.val), merging := some ((x.merging.getD []) ++ [(c.val, u)])
          beginner := x.beginner.or (some s.core.vdid) })) ∧
    (∀ (x : URec) (i k : Nat) (u v : ULine) (ps : List (Nat × ULine)), findURec s.coh line = some x → x.presence = 0 →
      x.merging = some ps → i < k → k < 128 → (ps = [(i, u)] ∨ ps = [(i, u), (k, v)]) → u.poison = 0 → v.poison = 0 →
      aliasDirty s line = false →
      Completes (.collectAnswer i line) s (fun t => findURec t.coh line = none ∧ t.poison = s.poison ∧
        (∀ j, (j < key ∨ key + 128 ≤ j) → t.mem.read j = s.mem.read j) ∧
        let n := utagW x.tag / 8
        ∀ j, j < 128 / n →
          let m := s.mem.readN (key + j * n) n
          let root := if ps = [(i, u)] then lineGet u.data (j * n) n
            else utagOp x.tag (lineGet u.data (j * n) n) (lineGet v.data (j * n) n)
          t.mem.readN (key + j * n) n =
            if (ps.any (fun p => p.2.touched.getLsbD (j * n))) = true then utagOp x.tag m root % 256 ^ n else m)) ∧
    (∀ (c : Fin 128) (x : URec), findURec s.coh line = some x → x.merging ≠ none → 100000 ≤ x.ns →
      x.presence.getLsbD c.val = true → Completes (.mergeCollectTimeout c.val line) s (fun t =>
        findURec t.coh line = none ∧ (∀ q, q < 4 → key / 32 + q ∈ t.poison) ∧ (∀ d, ∀ u ∈ (getCl t d).us, u.line ≠ line))) ∧
    (∀ (c : Fin 128) (w : WLine), findWLine (getCl s c) line = some w →
      (10000 ≤ w.age → (∀ d, d ≠ c → findWLine (getCl s d) line = none) → findURec s.coh line = none →
        aliasDirty s line = false → activeFor s line = none → Completes (.wLineTimeout c.val line) s (fun t => findWLine (getCl t c) line = none ∧
        (∀ d, findLine (getCl t d) line = none) ∧ (∀ n, tokensAt t line n = if n = 5 then 16 else 0) ∧ ∀ k, t.mem.read k =
          if key ≤ k ∧ k < key + 128 ∧ w.mask.getLsbD (k - key) = true then BitVec.ofNat 8 (lineGet w.data (k - key) 1)
          else s.mem.read k)) ∧
      (w.age < 10000 → exec (.wLineTimeout c.val line) s = .next s))

/-! ## Errors, power, debug, management -/

/-- R369 to R377, R391 to R393: what each error does: poison at the home, a lost line, a fault of the reading instruction, a
retried or retrained link, counts, a retired lane. Model: Which events there are and that each is one step is the model's
choice (log 10). -/
def Obligations.Errors : Prop :=
  ∀ (s : State),
    (∀ (c : Fin 128) (line : Nat) (l : CLine) (sectors : List (Fin 4)) (bad : Bool), findLine (getCl s c) line = some l →
      let key := memKey s.part (line * 128)
      Completes (.cacheDataError c.val line sectors bad) s (fun t => findLine (getCl t c) line = none ∧ t.mem = s.mem ∧
        t.core = s.core ∧ (∀ d, d ≠ c → getCl t d = getCl s d) ∧
        (l.st = .m ∨ bad = true → t.part.corrected = s.part.corrected) ∧
        (l.st ≠ .m → bad = false → ∃ x ∈ t.part.corrected, x.unit = ⟨3, c.val⟩) ∧
        ∀ q : Fin 4, key / 32 + q.val ∈ t.poison ↔ key / 32 + q.val ∈ s.poison ∨ (q ∈ sectors ∧ (l.st = .m ∨ bad = true)))) ∧
    (∀ (c : Fin 128) (line : Nat) (sectors : List (Fin 4)) (bad : Bool), findLine (getCl s c) line = none →
      (findWLine (getCl s c) line = none → Completes (.cacheDataError c.val line sectors bad) s (fun t => MemoryKept s t ∧
        (getCl t c).us = (getCl s c).us.map (fun u => if u.line = line then { u with poison := u.poison ||| sectorMask sectors } else u) ∧
        (∀ d, d ≠ c → getCl t d = getCl s d))) ∧
      (findWLine (getCl s c) line ≠ none → Completes (.cacheDataError c.val line sectors bad) s (fun t =>
        findWLine (getCl t c) line = none ∧ ∀ q ∈ sectors, memKey s.part (line * 128) / 32 + q.val ∈ t.poison))) ∧
    (∀ (c : Fin 128) (line : Nat) (good : Bool),
      let dirty := (∃ u ∈ (getCl s c).us, u.line = line) ∨ findWLine (getCl s c) line ≠ none ∨
        (findLine (getCl s c) line).map (·.st) = some .m
      (¬ dirty → findLine (getCl s c) line = none → exec (.cacheTagParityError c.val line good) s = .next s) ∧
      (good = true → ¬ dirty → findLine (getCl s c) line ≠ none → Completes (.cacheTagParityError c.val line good) s (fun t => MemoryKept s t ∧ t.core = s.core ∧
        getCl t c = { getCl s c with lines := (getCl s c).lines.filter (fun x => x.line != line) })) ∧
      (dirty ∨ (good = false ∧ findLine (getCl s c) line ≠ none) → Completes (.cacheTagParityError c.val line good) s (fun t =>
        (getCl t c).lines = [] ∧ (∀ u ∈ (getCl t c).us, u.line ≠ line) ∧ findWLine (getCl t c) line = none ∧ (∀ k ∈ s.cores, k.index.val / 8 = c.val → k.run ≠ .off →
          ∀ g ∈ t.part.groups, g.cgid = k.cgid → g.killed = true) ∧
        ((∀ k ∈ s.cores, k.index.val / 8 = c.val → k.run = .off) → findWLine (getCl s c) line ≠ none ∨
          (findLine (getCl s c) line ≠ none ∧ (findTok s.coh line).owner = (clusterDie c).val ∧ otherHolds s c line = false) →
          ∀ q, q < 4 → memKey s.part (line * 128) / 32 + q ∈ t.poison)))) ∧
    (∀ site : ParitySite, (∀ z, site ≠ .acc z) → (∀ b, site ≠ .bReg b) →
      let n := match site with
        | .reg n => n
        | .queue j => 96 + j.val
        | .tileEntry t => 128 + t.val
        | _ => 0
      let r : State := { s with core := { s.core with saveBad := s.core.saveBad.filter (fun x => x != site) } }
      (s.core.run = .running → queuedReader s.core site = none → exec (.registerParityError site) s = .next (takeFault r
        { kind := 15, pc := s.core.pc, strip := s.core.stripBase, element := some (BitVec.ofNat 32 n) })) ∧
      (∀ k, s.core.run = .running → queuedReader s.core site = some k → s.core.entry = none →
        exec (.registerParityError site) s = .next (takeKill r { kind := if k.sup then 27 else 15, pc := k.pc, strip := k.stripBase
                                                                 element := some (BitVec.ofNat 32 n), resume := s.core.pc })) ∧
      (s.core.viq = [] → s.core.vmq = [] → queuedReader s.core site = none) ∧
      (s.core.run = .yielded → Completes (.registerParityError site) s (fun t =>
        t = { s with core := { s.core with saveBad := site :: s.core.saveBad } }))) ∧
    (∀ (z : ZReg) (m : MatOp), s.core.mats.find? (fun m => matZ m.ins == some z && m.st == .moving) = some m →
      Completes (.registerParityError (.acc z)) s (fun t => t = { s with core := { s.core with
        tiles := t.core.tiles
        mats := s.core.mats.map (fun x => if x.seq = m.seq then { x with st := .stopped 15 0 0 s.part.tstamp false } else x) } } ∧
        (matFills m.ins = none → t.core.tiles = s.core.tiles) ∧
        ∀ e y, matFills m.ins = some e → (s.core.tiles[e]).stamp = some y →
          (t.core.tiles[e]).stamp = some { y with flags := y.flags ||| 2 })) ∧
    (∀ b : Bool, Completes (.registerParityError (.bReg b)) s (fun t => t.core = s.core ∧ MemoryKept s t ∧
      ∀ x, (getCl t s.cl).breg[if b then (1 : Fin 2) else 0] = some x → x.loaded = false)) ∧
    (∀ (k : LinkKind) (i : Nat),
      let mine (r : LinkKind × Nat × Nat) : Bool := r.1 == k && r.2.1 == i
      let rest := s.part.retrains.filter (fun r => !mine r)
      (k = .pcie → Completes (.linkRetryExhausted k i) s (fun t =>
        t = { s with part := { s.part with answers := s.part.answers ++ [.aer false i] } })) ∧
      (k = .mesh → Completes (.linkRetryExhausted k i) s (fun t => t.part.fatalHeld = true)) ∧
      (k = .crazan ∨ k = .dieToDie → Completes (.linkRetryExhausted k i) s (fun t =>
        t = { s with part := { s.part with retrains := rest ++ [(k, i, 0)] } })) ∧
      ∀ r, s.part.retrains.find? mine = some r →
        Completes (.retrainComplete k i true) s (fun t => t = { s with part := { s.part with retrains := rest } }) ∧
        (k = .dieToDie → Completes (.retrainComplete k i false) s (fun t => t.part.fatalHeld = true)) ∧
        (k = .crazan → r.2.2 < 2 → Completes (.retrainComplete k i false) s (fun t =>
          t = { s with part := { s.part with retrains := rest ++ [(k, i, r.2.2 + 1)] } })) ∧
        (k = .crazan → 2 ≤ r.2.2 → Completes (.retrainComplete k i false) s (fun t =>
          t.part.portsDown = s.part.portsDown ||| BitVec.twoPow 16 i ∧ t.part.retrains = rest ∧ MemoryKept s t))) ∧
    (∀ u : ScrubUnit,
      let now := s.part.tstamp.toNat
      let rest := s.part.corrected.filter (fun x => x.unit != u)
      let old := (s.part.corrected.find? (fun x => x.unit == u)).getD ⟨u, 0, []⟩
      -- the errors of the second before this one that no record has taken in
      let near := old.times.filter (fun t => decide (now - t ≤ 1000000000))
      (near.length < 255 → Completes (.scrubTick u) s (fun t =>
        t = { s with part := { s.part with corrected := rest ++ [⟨u, old.count + 1, now :: near⟩] } })) ∧
      (255 ≤ near.length → u.kind < 256 → u.index < 2 ^ 32 →
        Completes (.scrubTick u) s (fun t => MemoryKept s t ∧ t.core = s.core ∧ t.part.corrected = rest ++ [⟨u, 0, []⟩] ∧
          ∃ r, t.part.fwLog.getLast? = some r ∧ r.code = 0 ∧ r.severity = 0 ∧ r.unit = BitVec.ofNat 8 u.kind ∧
            r.index = BitVec.ofNat 32 u.index ∧ r.count = BitVec.ofNat 32 (min (old.count + 1) (2 ^ 32 - 1))))) ∧
    (∀ lane : Fin 32,
      let now := s.part.tstamp.toNat
      let near := (s.core.timing.filter (fun x => x.1 == lane && decide (now - x.2 ≤ 1000000))).length
      let others := s.core.lmap &&& ~~~(BitVec.twoPow 32 lane.val)
      Completes (.timingErrorDetected lane) s (fun t => MemoryKept s t ∧ t.rest = s.rest ∧ t.core.s = s.core.s ∧ t.core.pc = s.core.pc ∧
        t.core.dbg.terrLane = BitVec.ofNat 5 lane.val ∧
        t.core.dbg.terrCount.toNat = min 0xFFFFFFFF (s.core.dbg.terrCount.toNat + 1) ∧
        (near < 15 ∨ others = 0 → t.core.lmap = s.core.lmap ∧ t.core.alcCeil = s.core.alcCeil) ∧
        (15 ≤ near → others ≠ 0 → s.core.lmap.getLsbD lane.val = true →
          t.core.lmap = others ∧ t.core.alcCeil = min s.core.alcCeil (liveLanes others) ∧
          t.core.alcCur = min s.core.alcCur t.core.alcCeil)))

/-- R301, R302, R304 to R306, R348, R389, R394, R395: droop, the steps of a ramp, the power controller, gating, and the watchdogs
that kill. Model: That time passes by steps of the model's own is its choice (log 4). -/
def Obligations.PowerAndWatchdogs : Prop :=
  ∀ (s : State),
    (∀ die : Fin 4,
      let d := s.part.dies[die]
      let now (i : Instr) (x : Die) : Prop :=
        Completes i s (fun t => t = { s with part := { s.part with dies := s.part.dies.set die x } })
      -- the step that begins at a die: a voltage step before the frequency steps that need it, and after those that allow it
      let starts (d : Die) (x : Option VfStep) : Prop :=
        (d.freq < d.target → x = some (if d.volt < voltFor d (d.freq + 1) then .volt true else .freq true)) ∧
        (d.target < d.freq →
          x = some (if d.falling = true ∧ d.freq % 2 = 0 ∧ voltFor d d.freq < d.volt then .volt false else .freq false)) ∧
        (d.freq = d.target → x = if voltFor d d.freq < d.volt then some (.volt false) else none);
      (d.phase = .stretch → now (.droopAlarm die) { d with alarmed := true }) ∧
      (d.phase ≠ .stretch → now (.droopAlarm die) { d with alarmed := true, phase := .stretch, left := d.stretch }) ∧
      (d.left = 0 → d.phase = .stretch → s.part.lockedClock = false → d.halve ≠ 0 →
        now (.droopPhaseEnd die) { d with phase := .halving, left := d.halve }) ∧
      (d.left = 0 → d.phase = .stretch → s.part.lockedClock = true ∨ d.halve = 0 →
        now (.droopPhaseEnd die) { d with phase := .nominal }) ∧
      (d.left = 0 → d.phase = .halving → now (.droopPhaseEnd die) { d with phase := .nominal }) ∧
      (d.left ≠ 0 ∨ d.phase = .nominal → exec (.droopPhaseEnd die) s = .next s) ∧
      (∀ i : Fin 5, voltFor d (20 + 2 * i.val) = d.volts[i] ∧ ∀ k : Fin 5, k.val = i.val + 1 → voltFor d (21 + 2 * i.val) = d.volts[k]) ∧
      (d.step = none → ∃ x, starts d x ∧ now (.vfStepComplete die) { d with step := x }) ∧
      (∀ y : VfStep, d.step = some y → ∃ x,
        let made : Die := match y with
          | .volt true => { d with volt := d.volt + 1, falling := false, step := none }
          | .volt false => { d with volt := d.volt - 1, step := none }
          | .freq true => { d with freq := d.freq + 1, falling := false, step := none }
          | .freq false => { d with freq := d.freq - 1, falling := true, step := none }
        starts made x ∧ now (.vfStepComplete die) { made with step := x })) ∧
    (∀ (w : Nat) (temps : List Int), ∃ t, exec (.powerControlTick w temps) s = .next t) ∧
    (∀ (w : Nat) (temps : Vector Int 5), s.part.watts = [] → s.part.ticks < 99 →
      let temp (i : Fin 4) : Int := temps[i.castSucc]
      let above : Bool := if 2300 < w then true else if w < 2200 then false else s.part.overPower
      let base := { s with part := { s.part with
        watts := [w], ticks := s.part.ticks + 1, sysTemp := temps[(4 : Fin 5)], overPower := above
        sysHot := if 100 ≤ temps[(4 : Fin 5)] then true else if temps[(4 : Fin 5)] < 95 then false else s.part.sysHot
        dies := Vector.ofFn (fun i : Fin 4 => { s.part.dies[i] with
          temp := temp i, hot := if 100 ≤ temp i then true else if temp i < 95 then false else (s.part.dies[i]).hot }) } }
      let beyond : Prop := 2400 < w ∨ ∃ i : Fin 5, 100 ≤ temps[i]
      let left : State := { base with part := { base.part with
        lockedClock := false, answers := s.part.answers ++ [.bytes Config.clockExitReport] } }
      let low (i : Fin 4) : Prop := 2300 < w ∨ 100 ≤ temps[(4 : Fin 5)] ∨ 100 ≤ temp i
      let up (i : Fin 4) : Prop := ¬ low i ∧ above = false ∧ base.part.sysHot = false ∧ (base.part.dies[i]).hot = false
      let dieOf (c : Core) : Fin 4 := clusterDie (coreCluster c.index)
      let floor (c : Core) : Nat := (c.alcCeil + 3) / 4
      let P : (State → Prop) → Prop := Completes (.powerControlTick w temps.toList) s
      -- nothing is lowered or restored; locked-clock mode ends over its limits
      let stands : Prop := (s.part.lockedClock = true → beyond → P (fun t => t = left)) ∧
        (s.part.lockedClock = false ∨ ¬ beyond → P (fun t => t = base))
      (s.part.fatalHeld = true → (∀ i : Fin 5, temps[i] < 95) →
        P (fun t => t.part.fatalHeld = false ∧ t.mem = s.mem ∧ ∀ c ∈ t.cores, c.run = .off)) ∧
      (s.part.fatalHeld = true → (∃ i : Fin 5, 95 ≤ temps[i]) → stands) ∧
      (s.part.fatalHeld = false → (∃ i : Fin 5, 110 ≤ temps[i]) → P (fun t => t.part.fatalHeld = true)) ∧
      (s.part.fatalHeld = false → (∀ i : Fin 5, temps[i] < 110) →
        (s.part.lockedClock = true → stands) ∧
        (s.part.lockedClock = false → (∀ i : Fin 4, (s.part.dies[i]).limited = false) →
          ((∀ i, ¬ low i) → (∀ i, ¬ up i) → P (fun t => t = base)) ∧
          ((∃ i, low i) → (∀ i, ¬ up i) →
            ((∃ c ∈ s.cores, low (dieOf c) ∧ floor c < c.alcCur) → P (fun t => t.part = base.part ∧
              t.cores = s.cores.map (fun c => if low (dieOf c) then
                { c with alcCur := if c.alcCur ≤ floor c then c.alcCur else max (floor c) (c.alcCur - 8) } else c))) ∧
            ((∀ c ∈ s.cores, low (dieOf c) → c.alcCur ≤ floor c) → P (fun t => t.cores = s.cores ∧ ∀ i : Fin 4,
              (t.part.dies[i]) = (if low i then { base.part.dies[i] with
                target := max 20 ((s.part.dies[i]).target - 1), step := (t.part.dies[i]).step } else base.part.dies[i]) ∧
              ((s.part.dies[i]).step ≠ none → (t.part.dies[i]).step = (s.part.dies[i]).step)))) ∧
          ((∃ i, up i) → (∀ i, ¬ low i) →
            let rises (i : Fin 4) : Prop := up i ∧ (s.part.dies[i]).target < (s.part.dies[i]).aim
            ((∃ i, rises i) → P (fun t => t.cores = s.cores ∧ ∀ i : Fin 4,
              (rises i → (t.part.dies[i]).target = (s.part.dies[i]).target + 1) ∧
              (¬ rises i → t.part.dies[i] = base.part.dies[i]))) ∧
            ((∀ i, ¬ rises i) → P (fun t => t.part = base.part ∧
              t.cores = s.cores.map (fun c => if up (dieOf c) then { c with alcCur := min c.alcCeil (c.alcCur + 8) } else c))))))) ∧
    (4096 ≤ s.core.idleEdges → s.part.lockedClock = false → s.core.viq.any (fun o => usesLanes o.work) = false →
      Completes .laneGateTimeout s (fun t => t = { s with core := { s.core with gated := true } })) ∧
    (s.core.idleEdges < 4096 ∨ s.part.lockedClock = true ∨ s.core.viq.any (fun o => usesLanes o.work) = true →
      exec .laneGateTimeout s = .next s) ∧
    (s.core.run = .running → s.core.held = false → s.core.dbg.st = .running → s.core.view = .u → s.core.entry = none →
      (∀ code : Nat, queuesUnit s ≠ .active →
        (s.core.wait = .q6 ∧ code = 38 ∨ (∃ j : Fin 8, s.core.wait = .push j ∧ code = 32 + j.val) ∨
          ∃ b : Fin 32, s.core.wait = .fifo b ∧ code = b.val) →
        (65536 ≤ s.core.queueEdges → exec .queueDeadlockWatchdog s = .next (takeKill s
          { kind := 19, pc := s.core.pc, strip := s.core.stripBase, sub := BitVec.ofNat 16 code })) ∧
        (s.core.queueEdges < 65536 → exec .queueDeadlockWatchdog s = .next s)) ∧
      (∀ k, deadlocked s = true → apQueue s.core.wait = none → blockedCap s.core = some k → 65536 ≤ s.core.queueEdges →
        exec .queueDeadlockWatchdog s = .next (takeKill s
          { kind := 19, pc := k.pc, strip := k.stripBase, sub := BitVec.ofNat 16 (waitedQueue s.core), resume := s.core.pc })) ∧
      ∀ (x : TSlot) (n : Nat), s.core.wait = .tile x n →
        (4194304 ≤ n → exec .tileWatchdog s = .next (takeKill s
          { kind := 18, pc := s.core.pc, strip := s.core.stripBase, sub := BitVec.ofNat 16 x.val })) ∧
        (n < 4194304 → exec .tileWatchdog s = .next s)) ∧
    (∀ (e : Entry) (g : Group) (d : Vd), s.core.entry = some e → findGroup s.part s.core.cgid = some g →
      findVd s.part g.vdid = some d →
      let budget := if g.lr.budget = 0 then d.budget else g.lr.budget
      (budget * 1000 ≤ e.ns → exec .supervisorTimeout s = .next (takeKill s
        { kind := 27, pc := s.core.pc, strip := s.core.stripBase })) ∧
      (e.ns < budget * 1000 → exec .supervisorTimeout s = .next s))

/-- R308 to R310, R313, R314, R317, R318, R397: the commands of the debug block, its registers, the reversed view, and dumps.
Model: The bytes of a dump's registers are free, and the cipher is not evaluated (log 15, log 20). -/
def Obligations.DebugBlock : Prop :=
  ∀ (s : State),
    let d := s.core.dbg
    let dbg (i : Instr) (x : Debug) : Prop := Completes i s (fun t => t = { s with core := { s.core with dbg := x } })
    (∀ g : Group, findGroup s.part s.core.cgid = some g →
      (s.core.run ≠ .off → d.st ≠ .stopped → Completes .stop s (fun t =>
        t.core = { s.core with dbg := { d with st := .stopped, cause := 1, bp := 0 } } ∧ MemoryKept s t ∧
        t.rest = s.rest.map (fun c => if inGroup g.cgid c = true ∧ c.dbg.st ≠ .stopped then
          { c with dbg := { c.dbg with st := .stopped, cause := 5, bp := 0 } } else c) ∧
        findGroup t.part g.cgid = some { g with stopped := true })) ∧
      (d.st = .stopped → Completes .run s (fun t =>
        t.core = { s.core with dbg := d.go } ∧ MemoryKept s t ∧ d.go.st = .running ∧ d.go.cause = 0 ∧ d.go.bpa = d.bpa ∧
        (d.cause = 2 → d.go.passBp = true) ∧
        t.rest = s.rest.map (fun c => if inGroup g.cgid c then { c with dbg := c.dbg.go } else c) ∧
        findGroup t.part g.cgid = some { g with stopped := false }))) ∧
    (d.st = .stopped → dbg .step { d.go with st := .stepping }) ∧
    (d.st = .stepping → (s.core.wait = .full ∨ s.core.wait = .q6 ∨ (∃ j, s.core.wait = .push j) ∨ ∃ x n, s.core.wait = .tile x n) →
      1000000 ≤ d.stepNs → Completes .stepBlocked s (fun t => t = { s with core := { s.core with
        wait := .none, dbg := { d with st := .stopped, cause := 7, bp := 0 } } })) ∧
    ((s.core.wait = .none ∨ s.core.wait = .halt ∨ s.core.wait = .other ∨ (∃ n, s.core.wait = .clocks n) ∨ d.stepNs < 1000000) →
      exec .stepBlocked s = .next s) ∧
    (d.st = .stopped → recOn s = true → d.viewAt = none → ∀ (l : List ApSnap) (x : ApSnap), d.hist = l ++ [x] →
      dbg .reverseStep { d with viewAt := some l.length, passBp := d.passBp || d.cause == 2, cause := 8, bp := 0 } ∧
      Completes .reverseStep s (fun t => shownAp t.core = x ∧ t.core.s = s.core.s ∧ t.core.pc = s.core.pc)) ∧
    (∀ k, d.st = .stopped → recOn s = true → d.viewAt = some k →
      dbg .reverseStep { d with viewAt := some (k - 1), passBp := d.passBp || d.cause == 2, cause := 8, bp := 0 }) ∧
    (∀ k, d.st = .stopped → d.viewAt = some k →
      (k + 1 < d.hist.length → dbg .forwardStep { d with viewAt := some (k + 1) }) ∧
      (d.hist.length ≤ k + 1 → Completes .forwardStep s (fun t =>
        t = { s with core := { s.core with dbg := { d with viewAt := none } } } ∧ shownAp t.core = apSnap s.core))) ∧
    (∀ v : Word,
      (let put (mask : Word) (r : DbgReg) (x : Debug) : Prop :=
        (v &&& ~~~mask = 0 → dbg (.registerWrite (.dbg r) v) x) ∧ (v &&& ~~~mask ≠ 0 → exec (.registerWrite (.dbg r) v) s = .next s);
        (∀ i : Fin 4, put 0x0000FFFFFFFFFFFD (.bpa i) { d with bpa := d.bpa.set i v }) ∧
        ∀ i : Fin 2, put 0x0000FFFFFFFFFFFF (.wpa i) { d with wpa := d.wpa.set i v } ∧
          put 0xC0000000001FFFFF (.wpl i) { d with wpl := d.wpl.set i v }) ∧
      (let cmd := (v.extractLsb' 0 3).toNat
        let same (i : Instr) : Prop := exec (.registerWrite (.dbg .dbctl) v) s = exec i s;
        (cmd = 1 → same .stop) ∧ (cmd = 2 → same .run) ∧ (cmd = 3 → same .step) ∧ (cmd = 4 → same .reverseStep) ∧
          (cmd = 5 → same .forwardStep)) ∧
      dbg (.registerWrite (.dbg .terr) v) { d with terrLane := v.extractLsb' 32 5, terrCount := v.extractLsb' 0 32 } ∧
      Completes (.registerWrite (.dbg .recbase) v) s (fun t =>
        t.core = { s.core with dbg := { d with
          recbase := v &&& 0x000FFFFFFFC00000, cpSeq := 0, cpRetired := d.retired, logged := 0, hist := [], newer := 0
          viewAt := none, recMode := recOn t } } ∧ MemoryKept s t) ∧
      (let lanes := v.extractLsb' 0 32;
        Completes (.registerWrite (.sys 0x004) v) s (fun t => MemoryKept s t ∧
        t.core = { s.core with
          lmap := if liveLanes lanes < 16 then s.core.lmap else lanes
          put := t.core.put, alcCeil := t.core.alcCeil, alcCur := t.core.alcCur, dbg := { d with recMode := t.core.dbg.recMode } } ∧
        (16 ≤ liveLanes lanes → (v.extractLsb' 32 6).toNat = liveLanes lanes → lmapLive t.core = liveLanes lanes) ∧
        (s.part.lockedClock = true → t.core.alcCeil = lmapLive t.core ∧ t.core.alcCur = lmapLive t.core) ∧
        (s.part.lockedClock = false →
          t.core.alcCeil = min s.core.alcCeil (lmapLive t.core) ∧ t.core.alcCur = min s.core.alcCur t.core.alcCeil))) ∧
      (v.extractLsb' 0 2 ≠ 3 → Completes (.registerWrite (.sys 0x00F) v) s (fun t => MemoryKept s t ∧ t.core = { s.core with
        view := if v.extractLsb' 0 2 = 1 then .s else if v.extractLsb' 0 2 = 2 then .m else .u
        dbg := { d with recMode := t.core.dbg.recMode } })) ∧
      ∀ n, ∃ t, exec (.registerWrite (.sys n) v) s = .next t) ∧
    (∀ (n : Nat) (pa : Word) (x : Vd), findVd s.part (BitVec.ofNat 6 n) = some x → n < 64 →
      (s.part.dump = none → paOk s.part x.part.toNat pa.toNat = true → (∃ k ∈ s.part.keys, k.slot = x.dkey) →
        s.part.nonce ≠ BitVec.allOnes 64 → Completes (.dumpRequest n pa) s (fun t => t = { s with part := { s.part with
          nonce := s.part.nonce + 1, dump := some ⟨x.vdid, pa.toNat, x.dkey, s.part.nonce⟩ } })) ∧
      (s.part.dump ≠ none ∨ (∀ k ∈ s.part.keys, k.slot ≠ x.dkey) ∨ s.part.nonce = BitVec.allOnes 64 ∨
        paOk s.part x.part.toNat pa.toNat = false → exec (.dumpRequest n pa) s = .next s)) ∧
    (∀ (x : Dump) (v : Vd) (bad : Bool), s.part.dump = some x → findVd s.part x.vdid = some v →
      (∃ k ∈ s.part.keys, k.slot = x.slot) → 0x2000000000 ≤ x.dest →
      Completes (.dumpComplete bad) s (fun t => t.part.dump = none ∧
        (bad = false → paOk s.part v.part.toNat x.dest = true →
          paOk s.part v.part.toNat (x.dest + 64 + (nameTable s x.vdid).length - 1) = true → ∀ i b,
          (dumpHeader x ((nameTable s x.vdid).length / 16) (dumpItems s v).length
            (((dumpItems s v).map (·.2)).flatten.length))[i]? = some b → t.mem.read (x.dest + i) = b)))

/-- R14, R93, R145, R155, R271, R293, R294, R298, R341: cores moved between partitions, reset, boot, messages of management, and
the two faults of a fetch. Model: The messages' formats are not evaluated (log 20), and what memory holds after reset is free
(log 23). -/
def Obligations.PartAndManagement : Prop :=
  ∀ (s : State),
    (∀ j x y : Fin 16,
      ((s.part.parts[x]).sysCores.getLsbD j.val = true →
        (∀ d ∈ s.part.vds, ∀ i, i / 64 = j.val → (d.excl ||| d.shared).getLsbD i = false) →
        Completes (.partitionCoreMove j x y) s (fun t =>
          (∀ i : Fin 16, (t.part.parts[i]).sysCores.getLsbD j.val = decide (i = y)) ∧
          ∀ i : Fin 1024, i.val / 64 = j.val → (t.getCore i).part = BitVec.ofNat 4 y.val ∧ (t.getCore i).run = .off ∧
            (t.getCore i).sBank = Vector.replicate 8 0 ∧ (t.getCore i).s = Vector.replicate 64 0 ∧ (t.getCore i).tlb = [] ∧
            (t.getCore i).alcCur = liveLanes (t.getCore i).lmap ∧
            (∀ off, off < 0x80000 → t.loc.read (coreKey i.val off) = 0) ∧ (getCl t (coreCluster i)).lines = [])) ∧
      ((s.part.parts[x]).sysCores.getLsbD j.val = false ∨
        (∃ d ∈ s.part.vds, ∃ i, i < 1024 ∧ i / 64 = j.val ∧ (d.excl ||| d.shared).getLsbD i = true) →
        exec (.partitionCoreMove j x y) s = .next s)) ∧
    Completes .reset s (fun t => t.core = Core.reset 0 ∧ t.rest = [] ∧ t.clusters = State.reset.clusters ∧ t.poison = [] ∧
      t.locPoison = [] ∧ t.coh = Coherence.reset ∧ t.deps = [] ∧ t.part = { Part.reset with
        present := s.part.present, fabric := s.part.fabric, nonce := s.part.nonce, dies := s.part.dies.map (fun d => { Die.reset with volts := d.volts }) }) ∧
    (∀ image : List Byte, s.part.bootHeld = none →
      (Config.imageVerified s.part.bootStage image = true → Config.fusedVersion ≤ Config.imageVersion image → s.part.bootStage < 3 →
        Completes (.bootStage image) s (fun t => t.part.bootStage = s.part.bootStage + 1 ∧ t.part.bootHeld = none ∧
          ∀ k : Fin 8, t.part.mr[k] = if k.val = s.part.bootStage then
            Config.sha384 (natBytes 48 (s.part.mr[k]).toNat ++ natBytes 48 (Config.sha384 image).toNat) else s.part.mr[k])) ∧
      (∀ cause : Nat, (cause = 1 ∧ Config.imageVerified s.part.bootStage image = false) ∨
          (cause = 2 ∧ Config.imageVerified s.part.bootStage image = true ∧ Config.imageVersion image < Config.fusedVersion) →
        Completes (.bootStage image) s (fun t => t.part.bootHeld = some s.part.bootStage ∧ t.part.mr = s.part.mr ∧
          t.part.bootStage = s.part.bootStage ∧ t.core = Core.reset 0 ∧ t.rest = [] ∧ MemoryKept s t ∧
          t.part.answers = s.part.answers ++ [.bytes (natBytes 2 s.part.bootStage ++ natBytes 2 cause)]))) ∧
    (Answers .getVersion s (Config.managementAnswer 0) ∧ Answers .getCapabilities s (Config.managementAnswer 1) ∧
      Answers .getDigests s (natBytes 48 (Config.sha384 Config.certificateChain).toNat) ∧
      Answers .getCertificate s Config.certificateChain ∧ Answers .mctpControlMessage s (Config.managementAnswer 5) ∧
      (∀ nonce, Answers (.challenge nonce) s
        (Config.spdmSignature (nonce ++ (s.part.mr.toList.map (fun x => natBytes 48 x.toNat)).flatten))) ∧
      (∀ i : Fin 8, Answers (.getMeasurements (i.val + 1)) s (natBytes 48 (s.part.mr[i]).toNat)) ∧
      Answers .pldmRequest s ((s.part.dies.toList.map (fun d => natBytes 2 (d.temp.emod (2 ^ 16)).toNat)).flatten
        ++ natBytes 2 (s.part.sysTemp.emod (2 ^ 16)).toNat ++ natBytes 4 ((s.part.watts.head?).getD 0) ++ natBytes 2 s.part.bootStage) ∧
      ∀ p q : Bool, Completes (.negotiateAlgorithms p q) s (fun t => t.part.algorithms = (p && q) ∧ MemoryKept s t ∧
        t.core = s.core ∧ t.part.answers.length = s.part.answers.length + 1)) ∧
    (let f : FaultInfo := { kind := 1, pc := s.core.pc, strip := s.core.stripBase };
      (s.core.viq = [] → s.core.vmq = [] → earlierRun s = false) ∧
      (earlierRun s = false → exec .reservedEncoding s = .next (takeFault s f)) ∧
      (s.core.view ≠ .s → takeFault s f = takeKill s f) ∧
      (earlierRun s = true → exec .reservedEncoding s = .next { s with core := { s.core with wait := .behind } })) ∧
    (∀ (k : BitVec 8) (level : Nat) (a : Word),
      let f : FaultInfo := { kind := k, pc := s.core.pc, strip := s.core.stripBase, sub := BitVec.ofNat 16 level, addr := some a }
      exec (.instructionFetchFault k level a) s = .next (takeFault s f) ∧
      (s.core.view ≠ .s → s.core.run ≠ .yielded → entryWaits s = false → k = 14 → Entered s.core (takeFault s f).core k s.core.pc) ∧
      (s.core.view ≠ .s → k = 15 → takeFault s f = takeKill s f))

/-! ## Reset, the step, encodings -/

/-- R41, R56, R73, R76, R93, R105, R118, R119, R207, R212, R270, R274 to R277, R296, R301 to R303, R308, R311, R314, R392, R408,
R409: what reset leaves, by the values that the spec gives; every system register as its image. -/
def Obligations.ResetState : Prop :=
  (∀ i : Fin 1024, (State.reset.getCore i).view = .m) ∧
  (∀ (i : Fin 1024) (n : Nat), n ≠ 0x003 → n ≠ 0x004 → sysImage { State.reset with core := State.reset.getCore i } n =
    if n = 0x001 then 1024 else if n = 0x00F then 2 else if n = 0x030 then 40 else if n = 0x031 then 6
    else if n = 0x032 then 64 else 0) ∧
  (∀ i : Fin 1024, let c := State.reset.getCore i
    c.alcCeil = liveLanes c.lmap ∧ c.alcCur = liveLanes c.lmap ∧ c.dbg.st = .running ∧ c.dbg.cause = 0 ∧ c.dbg.bp = 0 ∧
    c.dbg.recMode = false ∧ c.dbg.recbase = 0 ∧ c.dbg.terrLane = 0 ∧ c.dbg.terrCount = 0) ∧
  (∀ t : TSlot, (State.reset.core.tiles[t]).st = .empty) ∧
  (∀ c : Fin 128, (getCl State.reset c).cbmode = 0) ∧
  (∀ line place, tokensAt State.reset line place = if place = 5 then 16 else 0) ∧
  (∀ line, (findTok State.reset.coh line).owner = 5) ∧
  (∀ i : Fin 16, (State.reset.part.parts[i]).sysCores = (if i = 0 then 0xFFFF else 0) ∧ (State.reset.part.parts[i]).clock = false) ∧
  State.reset.part.tstamp = 0 ∧
  (∀ d : Fin 4, (State.reset.part.dies[d]).droopth = 40 ∧ (State.reset.part.dies[d]).stretch = 6 ∧
    (State.reset.part.dies[d]).halve = 64 ∧ (State.reset.part.dies[d]).cycle = 0)

/-- Memory is in its canonical form at reset. Model: The canonical form is the model's own (log 5). -/
def Obligations.ResetCanonical : Prop := Canonical State.reset

/-- R133, R155, R341: a step whose AP may issue runs the instruction that the words at the pc are, and then passes on, records, or
ends a step (`afterAp`); words that are none run reserved-encoding, and a fetch that fails its fault, behind earlier
instructions that have still to complete; an event on the agenda runs by itself. Model: That a turn of the agenda, what is
due, and the AP come in this order is the model's choice (log 1). -/
def Obligations.StepRunsDecoded : Prop :=
  ∀ (s : State),
    (∀ (t : State) (ws : List IWord) (i : Instr) (n : Nat), ApMoves s → fetchInstr s = .words t ws → decodeWords ws = .ok (i, n) →
      step s = match exec i t with
        | .next u => .next (afterAp i t u)
        | .fault f => .fault f
        | .refused r => .refused r) ∧
    (∀ (w : IWord) (ws : List IWord), Quiet s → CodeAt s s.core.pc (w :: ws) → ws.length = lengthOf w - 1 →
      ∃ t, fetchInstr s = .words t (w :: ws) ∧ MemoryKept s t ∧ t.core = s.core ∧ t.rest = s.rest) ∧
    (∀ (i : Instr) (u : State), u.core.wait = .none → dflag s 0 = false → u.core.dbg.st ≠ .stepping →
      afterAp i s u = { u with core := { u.core.advDue with dbg := { u.core.dbg with passBp := false } }, issued := true }) ∧
    (∀ (i : Instr) (u : State), u.core.wait ≠ .none → u.core.dbg.st ≠ .stepping →
      afterAp i s u = passOn { u with core := u.core.advDue }) ∧
    (∀ (t : State) (l : List IWord) (e : DecodeErr), ApMoves s → fetchInstr s = .words t l → decodeWords l = .error e →
      step s = if earlierRun t then .next (passOn (t.waitAs .behind)) else exec .reservedEncoding t) ∧
    (∀ (t : State) (f : XFault) (va : Word), ApMoves s → fetchInstr s = .fault t f none va →
      let u := walkPoisonLog (walkedTo t f) f
      step s = if repairKind f.kind = true ∧ entryWaits u = true then .next (passOn (u.waitAs .behind))
        else exec (.instructionFetchFault f.kind f.level va) u) ∧
    (windowDue s.part = none → ∀ (i : Instr) (l : List Turn), partHeld s = false → s.agenda = .event i :: l → step s = exec i { s with agenda := l })

/-- R133 to R146: decoding what the encoder writes gives the instruction back, with its length, whatever follows; and every word
that decodes is the one that the encoder writes, of a well-formed instruction. The same for the advice space. Model: That an
instruction with a word 2 immediate ignores its b field is the model's reading (log 27). -/
def Obligations.EncodeDecode : Prop :=
  (∀ (i : Instr) (rest : List Byte), i.wf = true → i.semantic = true →
    decode (encode i ++ rest) = .ok (i, (encodeWords i).length)) ∧
  (∀ (ws : List IWord) (i : Instr) (n : Nat), decodeWords ws = .ok (i, n) → i.wf = true ∧ encodeWords i = ws.take n) ∧
  (∀ (i : Instr) (w : IWord), i.wf = true → encodeAdvice i = some w → decodeAdvice w = some i) ∧
  (∀ (i : Instr) (w : IWord), decodeAdvice w = some i → i.wf = true ∧ encodeAdvice i = some w)

/-- R133 to R145: words put together from the tables of the spec decode to what they stand for; a reserved class does not decode. -/
def Obligations.DecodeWords : Prop :=
  decodeWords [0x20843020] = .ok (.add 6 2 (.imm6 1), 1) ∧
  decodeWords [0x000230A6, 0x10001000, 0] = .ok (.amo .add .none true .dev 6 1 0 0, 3) ∧
  decodeWords [0x250043E0] = .ok (.li 8 (.imm6 10), 1) ∧
  decodeWords [0x240E002A, 0, 6] = .ok (.bcc .ne 7 (.reg 8) 6, 3) ∧
  decodeWords [0xC0023845, 8, 0] = .ok (.st .b64 7 1 (.lit 8), 3) ∧
  decodeWords [0x000002E8] = .ok (.halt, 1) ∧
  decodeWords [0x00050128] = .ok (.cairn 5, 1) ∧
  decodeWords [0x00000000] = .error .reserved

/-- Every step keeps both memories in their canonical form: rising addresses, and no entry that equals what an unlisted address
reads as. Model: The canonical form is the model's own (log 5). -/
def Obligations.StepKeepsMemory : Prop :=
  ∀ (s t : State), Canonical s → step s = .next t → Canonical t
end

