-- ==== Sys2Proof/Laws/Mem.lean ====
section
/-! SUPPORT. Laws of memory: a read after a write, the addresses that a write leaves alone, and the canonical form, which
every operation on memory keeps. -/

namespace Sys2Proof.Machine

open Sys2Proof

/-! ## Cells -/

theorem cellFind_insert_same (l : List Host.Cell) (a : Nat) (b : Byte) : cellFind (cellInsert l a b) a = some b := by
  induction l with
  | nil => simp [cellInsert, cellFind]
  | cons c t ih =>
    obtain ⟨x, y⟩ := c
    by_cases h1 : a < x
    · simp [cellInsert, h1, cellFind]
    · by_cases h2 : a = x
      · subst h2; simp [cellInsert, cellFind]
      · have h3 : ¬ x = a := fun h => h2 h.symm
        simp [cellInsert, h1, h2, h3, cellFind, ih]

theorem cellFind_insert_other (l : List Host.Cell) (a x : Nat) (b : Byte) (h : x ≠ a) :
    cellFind (cellInsert l a b) x = cellFind l x := by
  induction l with
  | nil => simp [cellInsert, cellFind, Ne.symm h]
  | cons c t ih =>
    obtain ⟨y, z⟩ := c
    by_cases h1 : a < y
    · simp [cellInsert, h1, cellFind, Ne.symm h]
    · by_cases h2 : a = y
      · subst h2; simp [cellInsert, cellFind, Ne.symm h]
      · simp only [cellInsert, h1, h2, if_false, cellFind, ih]

theorem cellFind_erase_same (l : List Host.Cell) (a : Nat) : cellFind (cellErase l a) a = none := by
  induction l with
  | nil => rfl
  | cons c t ih =>
    obtain ⟨x, y⟩ := c
    by_cases h : x = a
    · subst h; simpa [cellErase, cellFind] using ih
    · have hc : cellErase ((x, y) :: t) a = (x, y) :: cellErase t a := by simp [cellErase, h]
      rw [hc]; simp only [cellFind, h, if_false, ih]

theorem cellFind_erase_other (l : List Host.Cell) (a x : Nat) (h : x ≠ a) : cellFind (cellErase l a) x = cellFind l x := by
  induction l with
  | nil => rfl
  | cons c t ih =>
    obtain ⟨y, z⟩ := c
    by_cases h1 : y = a
    · subst h1
      have hc : cellErase ((y, z) :: t) y = cellErase t y := by simp [cellErase]
      rw [hc, ih]; simp [cellFind, Ne.symm h]
    · have hc : cellErase ((y, z) :: t) a = (y, z) :: cellErase t a := by simp [cellErase, h1]
      rw [hc]; simp only [cellFind, ih]

/-! ## Reads and writes -/

@[simp] theorem Memory.write_free (m : Memory) (a : Nat) (b : Byte) : (m.write a b).free = m.free := rfl

@[simp] theorem Memory.write_unlisted (m : Memory) (a x : Nat) (b : Byte) : (m.write a b).unlisted x = m.unlisted x := rfl

/-- A byte read after it was written is the byte written. -/
@[simp] theorem Memory.read_write_same (m : Memory) (a : Nat) (b : Byte) : (m.write a b).read a = b := by
  by_cases h : b = m.unlisted a
  · simp [Memory.read, Memory.write, h, cellFind_erase_same, Memory.unlisted]
  · simp [Memory.read, Memory.write, h, cellFind_insert_same]

/-- A write leaves every other byte alone. -/
theorem Memory.read_write_other (m : Memory) (a x : Nat) (b : Byte) (h : x ≠ a) : (m.write a b).read x = m.read x := by
  have hu : (m.write a b).unlisted x = m.unlisted x := rfl
  simp only [Memory.read, hu]
  by_cases hb : b = m.unlisted a
  · simp only [Memory.write, hb, if_true, cellFind_erase_other _ _ _ h]
  · simp only [Memory.write, hb, if_false, cellFind_insert_other _ _ _ _ h]

/-- n bytes written leave every byte outside them alone. -/
theorem Memory.read_writeN_other (n : Nat) : ∀ (m : Memory) (a v x : Nat), x < a ∨ a + n ≤ x → (m.writeN a n v).read x = m.read x := by
  induction n with
  | zero => intro m a v x _; rfl
  | succ n ih =>
    intro m a v x h
    simp only [Memory.writeN]
    rw [ih _ _ _ _ (by omega), Memory.read_write_other _ _ _ _ (by omega)]

/-- Byte i of n bytes written is byte i of the value. -/
theorem Memory.read_writeN_at (n : Nat) : ∀ (m : Memory) (a v i : Nat), i < n →
    (m.writeN a n v).read (a + i) = BitVec.ofNat 8 (v / 256 ^ i) := by
  induction n with
  | zero => intro m a v i h; omega
  | succ n ih =>
    intro m a v i h
    simp only [Memory.writeN]
    cases i with
    | zero =>
      rw [Nat.add_zero, Memory.read_writeN_other n _ _ _ _ (by omega)]
      simp
    | succ i =>
      have := ih (m.write a (BitVec.ofNat 8 v)) (a + 1) (v / 256) i (by omega)
      rw [show a + 1 + i = a + (i + 1) by omega] at this
      rw [this, Nat.div_div_eq_div_mul, Nat.pow_succ, Nat.mul_comm]

/-- The value read from n bytes that were just written (R4). -/
theorem Memory.readN_writeN (n : Nat) : ∀ (m : Memory) (a v : Nat), (m.writeN a n v).readN a n = v % 256 ^ n := by
  induction n with
  | zero => intro m a v; simp [Memory.readN, Nat.mod_one]
  | succ n ih =>
    intro m a v
    have h0 := Memory.read_writeN_at (n + 1) m a v 0 (by omega)
    simp only [Nat.add_zero, Nat.pow_zero, Nat.div_one] at h0
    simp only [Memory.readN, h0]
    simp only [Memory.writeN]
    rw [ih, BitVec.toNat_ofNat, show 256 ^ (n + 1) = 256 * 256 ^ n by rw [Nat.pow_succ, Nat.mul_comm], Nat.mod_mul]

/-! ## The canonical form -/

theorem Memory.wf_empty : Memory.empty.wf := by
  constructor
  · exact List.Pairwise.nil
  · intro c h; exact absurd h (List.not_mem_nil)

theorem mem_cellInsert {l : List Host.Cell} {a : Nat} {b : Byte} {c : Host.Cell} (h : c ∈ cellInsert l a b) :
    c = (a, b) ∨ c ∈ l := by
  induction l with
  | nil => simpa [cellInsert] using h
  | cons d t ih =>
    obtain ⟨x, y⟩ := d
    by_cases h1 : a < x
    · simpa [cellInsert, h1] using h
    · by_cases h2 : a = x
      · subst h2
        simp only [cellInsert, Nat.lt_irrefl, if_false, if_true, List.mem_cons] at h
        rcases h with h | h
        · exact .inl h
        · exact .inr (List.mem_cons_of_mem _ h)
      · simp only [cellInsert, h1, h2, if_false, List.mem_cons] at h
        rcases h with h | h
        · exact .inr (by simp [h])
        · rcases ih h with h | h
          · exact .inl h
          · exact .inr (List.mem_cons_of_mem _ h)

theorem cellInsert_sorted {l : List Host.Cell} (a : Nat) (b : Byte) (h : l.Pairwise (fun x y => x.1 < y.1)) :
    (cellInsert l a b).Pairwise (fun x y => x.1 < y.1) := by
  induction l with
  | nil => simp [cellInsert]
  | cons d t ih =>
    obtain ⟨x, y⟩ := d
    have hd := List.pairwise_cons.mp h
    by_cases h1 : a < x
    · simp only [cellInsert, h1, if_true]
      refine List.pairwise_cons.mpr ⟨?_, h⟩
      intro c hc
      rcases List.mem_cons.mp hc with hc | hc
      · simpa [hc] using h1
      · exact Nat.lt_trans h1 (hd.1 c hc)
    · by_cases h2 : a = x
      · subst h2
        simp only [cellInsert, Nat.lt_irrefl, if_false, if_true]
        exact List.pairwise_cons.mpr ⟨hd.1, hd.2⟩
      · simp only [cellInsert, h1, h2, if_false]
        refine List.pairwise_cons.mpr ⟨?_, ih hd.2⟩
        intro c hc
        rcases mem_cellInsert hc with hc | hc
        · subst hc; show x < a; omega
        · exact hd.1 c hc

/-- A write keeps the canonical form. -/
theorem Memory.write_wf (m : Memory) (a : Nat) (b : Byte) (h : m.wf) : (m.write a b).wf := by
  obtain ⟨h1, h2⟩ := h
  by_cases hb : b = m.unlisted a
  · simp only [Memory.wf, Memory.write, hb, if_true]
    refine ⟨h1.filter _, ?_⟩
    intro c hc
    exact h2 c (List.mem_filter.mp hc).1
  · simp only [Memory.wf, Memory.write, hb, if_false]
    refine ⟨cellInsert_sorted a b h1, ?_⟩
    intro c hc
    rcases mem_cellInsert hc with hc | hc
    · subst hc; exact hb
    · exact h2 c hc

theorem Memory.writeN_wf (n : Nat) : ∀ (m : Memory) (a v : Nat), m.wf → (m.writeN a n v).wf := by
  induction n with
  | zero => intro m a v h; exact h
  | succ n ih => intro m a v h; exact ih _ _ _ (Memory.write_wf m a _ h)

theorem Memory.writeList_wf (l : List Byte) : ∀ (m : Memory) (a : Nat), m.wf → (m.writeList a l).wf := by
  induction l with
  | nil => intro m a h; exact h
  | cons b t ih => intro m a h; exact ih _ _ (Memory.write_wf m a b h)

theorem unlistedIn_cons_other {r : FreeRange} {l : List FreeRange} {a : Nat} (h : r.covers a = false) :
    unlistedIn (r :: l) a = unlistedIn l a := by
  simp [unlistedIn, List.find?, h]

theorem dropCells_out {m : Memory} {lo len : Nat} {c : Host.Cell} (h : c ∈ m.dropCells lo len) :
    c ∈ m.cells ∧ (c.1 < lo ∨ lo + len ≤ c.1) := by
  simp only [Memory.dropCells, List.mem_filter, decide_eq_true_eq] at h
  exact h

/-- Making a range undefined keeps the canonical form. -/
theorem Memory.makeFree_wf (m : Memory) (lo len gen : Nat) (h : m.wf) : (m.makeFree lo len gen).wf := by
  obtain ⟨h1, h2⟩ := h
  refine ⟨h1.filter _, ?_⟩
  intro c hc
  obtain ⟨hc, ho⟩ := dropCells_out hc
  have : (FreeRange.mk lo len (some gen)).covers c.1 = false := by simp [FreeRange.covers]; omega
  simp only [Memory.makeFree, Memory.unlisted, unlistedIn_cons_other this]
  exact h2 c hc

/-- Zeroing a range keeps the canonical form. -/
theorem Memory.makeZero_wf (m : Memory) (lo len : Nat) (h : m.wf) : (m.makeZero lo len).wf := by
  obtain ⟨h1, h2⟩ := h
  refine ⟨h1.filter _, ?_⟩
  intro c hc
  obtain ⟨hc, ho⟩ := dropCells_out hc
  have hcov : (FreeRange.mk lo len none).covers c.1 = false := by simp [FreeRange.covers]; omega
  by_cases hf : m.free.isEmpty
  · have : m.free = [] := List.isEmpty_iff.mp hf
    have h3 := h2 c hc
    simp only [Memory.unlisted, this] at h3
    simpa [Memory.makeZero, Memory.unlisted, this] using h3
  · simp only [Memory.makeZero, hf, Memory.unlisted, Bool.false_eq_true, if_false, unlistedIn_cons_other hcov]
    exact h2 c hc

end Sys2Proof.Machine
end

