-- ==== Sys2Proof/Laws/State.lean ====
section
/-! SUPPORT. One law per field per named update of the state and of a core: what each changes and what it leaves. -/

namespace Sys2Proof.Machine

open Sys2Proof

/-! ## Updates of the state -/

@[simp] theorem State.withCore_core (s : State) (c : Core) : (s.withCore c).core = c := rfl
@[simp] theorem State.withCore_rest (s : State) (c : Core) : (s.withCore c).rest = s.rest := rfl
@[simp] theorem State.withCore_clusters (s : State) (c : Core) : (s.withCore c).clusters = s.clusters := rfl
@[simp] theorem State.withCore_mem (s : State) (c : Core) : (s.withCore c).mem = s.mem := rfl
@[simp] theorem State.withCore_poison (s : State) (c : Core) : (s.withCore c).poison = s.poison := rfl
@[simp] theorem State.withCore_loc (s : State) (c : Core) : (s.withCore c).loc = s.loc := rfl
@[simp] theorem State.withCore_locPoison (s : State) (c : Core) : (s.withCore c).locPoison = s.locPoison := rfl
@[simp] theorem State.withCore_coh (s : State) (c : Core) : (s.withCore c).coh = s.coh := rfl
@[simp] theorem State.withCore_part (s : State) (c : Core) : (s.withCore c).part = s.part := rfl
@[simp] theorem State.withCore_deps (s : State) (c : Core) : (s.withCore c).deps = s.deps := rfl
@[simp] theorem State.withCore_agenda (s : State) (c : Core) : (s.withCore c).agenda = s.agenda := rfl
@[simp] theorem State.withCore_slowEp (s : State) (c : Core) : (s.withCore c).slowEp = s.slowEp := rfl
@[simp] theorem State.withCore_issued (s : State) (c : Core) : (s.withCore c).issued = s.issued := rfl
@[simp] theorem State.withCore_free (s : State) (c : Core) : (s.withCore c).free = s.free := rfl

@[simp] theorem State.updCore_core (s : State) (f : Core → Core) : (s.updCore f).core = f s.core := rfl
@[simp] theorem State.updCore_rest (s : State) (f : Core → Core) : (s.updCore f).rest = s.rest := rfl
@[simp] theorem State.updCore_clusters (s : State) (f : Core → Core) : (s.updCore f).clusters = s.clusters := rfl
@[simp] theorem State.updCore_mem (s : State) (f : Core → Core) : (s.updCore f).mem = s.mem := rfl
@[simp] theorem State.updCore_poison (s : State) (f : Core → Core) : (s.updCore f).poison = s.poison := rfl
@[simp] theorem State.updCore_loc (s : State) (f : Core → Core) : (s.updCore f).loc = s.loc := rfl
@[simp] theorem State.updCore_locPoison (s : State) (f : Core → Core) : (s.updCore f).locPoison = s.locPoison := rfl
@[simp] theorem State.updCore_coh (s : State) (f : Core → Core) : (s.updCore f).coh = s.coh := rfl
@[simp] theorem State.updCore_part (s : State) (f : Core → Core) : (s.updCore f).part = s.part := rfl
@[simp] theorem State.updCore_deps (s : State) (f : Core → Core) : (s.updCore f).deps = s.deps := rfl
@[simp] theorem State.updCore_agenda (s : State) (f : Core → Core) : (s.updCore f).agenda = s.agenda := rfl
@[simp] theorem State.updCore_slowEp (s : State) (f : Core → Core) : (s.updCore f).slowEp = s.slowEp := rfl
@[simp] theorem State.updCore_issued (s : State) (f : Core → Core) : (s.updCore f).issued = s.issued := rfl
@[simp] theorem State.updCore_free (s : State) (f : Core → Core) : (s.updCore f).free = s.free := rfl

@[simp] theorem State.setSreg_core (s : State) (r : SReg) (v : Word) : (s.setSreg r v).core = s.core.setSreg r v := rfl
@[simp] theorem State.setSreg_rest (s : State) (r : SReg) (v : Word) : (s.setSreg r v).rest = s.rest := rfl
@[simp] theorem State.setSreg_clusters (s : State) (r : SReg) (v : Word) : (s.setSreg r v).clusters = s.clusters := rfl
@[simp] theorem State.setSreg_mem (s : State) (r : SReg) (v : Word) : (s.setSreg r v).mem = s.mem := rfl
@[simp] theorem State.setSreg_poison (s : State) (r : SReg) (v : Word) : (s.setSreg r v).poison = s.poison := rfl
@[simp] theorem State.setSreg_loc (s : State) (r : SReg) (v : Word) : (s.setSreg r v).loc = s.loc := rfl
@[simp] theorem State.setSreg_locPoison (s : State) (r : SReg) (v : Word) : (s.setSreg r v).locPoison = s.locPoison := rfl
@[simp] theorem State.setSreg_coh (s : State) (r : SReg) (v : Word) : (s.setSreg r v).coh = s.coh := rfl
@[simp] theorem State.setSreg_part (s : State) (r : SReg) (v : Word) : (s.setSreg r v).part = s.part := rfl
@[simp] theorem State.setSreg_deps (s : State) (r : SReg) (v : Word) : (s.setSreg r v).deps = s.deps := rfl
@[simp] theorem State.setSreg_agenda (s : State) (r : SReg) (v : Word) : (s.setSreg r v).agenda = s.agenda := rfl
@[simp] theorem State.setSreg_slowEp (s : State) (r : SReg) (v : Word) : (s.setSreg r v).slowEp = s.slowEp := rfl
@[simp] theorem State.setSreg_issued (s : State) (r : SReg) (v : Word) : (s.setSreg r v).issued = s.issued := rfl
@[simp] theorem State.setSreg_free (s : State) (r : SReg) (v : Word) : (s.setSreg r v).free = s.free := rfl

@[simp] theorem State.goto_core (s : State) (a : Word) : (s.goto a).core = { s.core with pc := a, wait := .none } := rfl
@[simp] theorem State.goto_rest (s : State) (a : Word) : (s.goto a).rest = s.rest := rfl
@[simp] theorem State.goto_clusters (s : State) (a : Word) : (s.goto a).clusters = s.clusters := rfl
@[simp] theorem State.goto_mem (s : State) (a : Word) : (s.goto a).mem = s.mem := rfl
@[simp] theorem State.goto_poison (s : State) (a : Word) : (s.goto a).poison = s.poison := rfl
@[simp] theorem State.goto_loc (s : State) (a : Word) : (s.goto a).loc = s.loc := rfl
@[simp] theorem State.goto_locPoison (s : State) (a : Word) : (s.goto a).locPoison = s.locPoison := rfl
@[simp] theorem State.goto_coh (s : State) (a : Word) : (s.goto a).coh = s.coh := rfl
@[simp] theorem State.goto_part (s : State) (a : Word) : (s.goto a).part = s.part := rfl
@[simp] theorem State.goto_deps (s : State) (a : Word) : (s.goto a).deps = s.deps := rfl
@[simp] theorem State.goto_agenda (s : State) (a : Word) : (s.goto a).agenda = s.agenda := rfl
@[simp] theorem State.goto_slowEp (s : State) (a : Word) : (s.goto a).slowEp = s.slowEp := rfl
@[simp] theorem State.goto_issued (s : State) (a : Word) : (s.goto a).issued = s.issued := rfl
@[simp] theorem State.goto_free (s : State) (a : Word) : (s.goto a).free = s.free := rfl

@[simp] theorem State.advance_core (s : State) (n : Nat) : (s.advance n).core = { s.core with pc := s.core.pc + BitVec.ofNat 64 n, wait := .none } := rfl
@[simp] theorem State.advance_rest (s : State) (n : Nat) : (s.advance n).rest = s.rest := rfl
@[simp] theorem State.advance_clusters (s : State) (n : Nat) : (s.advance n).clusters = s.clusters := rfl
@[simp] theorem State.advance_mem (s : State) (n : Nat) : (s.advance n).mem = s.mem := rfl
@[simp] theorem State.advance_poison (s : State) (n : Nat) : (s.advance n).poison = s.poison := rfl
@[simp] theorem State.advance_loc (s : State) (n : Nat) : (s.advance n).loc = s.loc := rfl
@[simp] theorem State.advance_locPoison (s : State) (n : Nat) : (s.advance n).locPoison = s.locPoison := rfl
@[simp] theorem State.advance_coh (s : State) (n : Nat) : (s.advance n).coh = s.coh := rfl
@[simp] theorem State.advance_part (s : State) (n : Nat) : (s.advance n).part = s.part := rfl
@[simp] theorem State.advance_deps (s : State) (n : Nat) : (s.advance n).deps = s.deps := rfl
@[simp] theorem State.advance_agenda (s : State) (n : Nat) : (s.advance n).agenda = s.agenda := rfl
@[simp] theorem State.advance_slowEp (s : State) (n : Nat) : (s.advance n).slowEp = s.slowEp := rfl
@[simp] theorem State.advance_issued (s : State) (n : Nat) : (s.advance n).issued = s.issued := rfl
@[simp] theorem State.advance_free (s : State) (n : Nat) : (s.advance n).free = s.free := rfl

@[simp] theorem State.waitAs_core (s : State) (w : Wait) : (s.waitAs w).core = { s.core with wait := w } := rfl
@[simp] theorem State.waitAs_rest (s : State) (w : Wait) : (s.waitAs w).rest = s.rest := rfl
@[simp] theorem State.waitAs_clusters (s : State) (w : Wait) : (s.waitAs w).clusters = s.clusters := rfl
@[simp] theorem State.waitAs_mem (s : State) (w : Wait) : (s.waitAs w).mem = s.mem := rfl
@[simp] theorem State.waitAs_poison (s : State) (w : Wait) : (s.waitAs w).poison = s.poison := rfl
@[simp] theorem State.waitAs_loc (s : State) (w : Wait) : (s.waitAs w).loc = s.loc := rfl
@[simp] theorem State.waitAs_locPoison (s : State) (w : Wait) : (s.waitAs w).locPoison = s.locPoison := rfl
@[simp] theorem State.waitAs_coh (s : State) (w : Wait) : (s.waitAs w).coh = s.coh := rfl
@[simp] theorem State.waitAs_part (s : State) (w : Wait) : (s.waitAs w).part = s.part := rfl
@[simp] theorem State.waitAs_deps (s : State) (w : Wait) : (s.waitAs w).deps = s.deps := rfl
@[simp] theorem State.waitAs_agenda (s : State) (w : Wait) : (s.waitAs w).agenda = s.agenda := rfl
@[simp] theorem State.waitAs_slowEp (s : State) (w : Wait) : (s.waitAs w).slowEp = s.slowEp := rfl
@[simp] theorem State.waitAs_issued (s : State) (w : Wait) : (s.waitAs w).issued = s.issued := rfl
@[simp] theorem State.waitAs_free (s : State) (w : Wait) : (s.waitAs w).free = s.free := rfl

@[simp] theorem State.retire_rest (s : State) (d : SReg) (v : Word) (n : Nat) : (s.retire d v n).rest = s.rest := rfl
@[simp] theorem State.retire_clusters (s : State) (d : SReg) (v : Word) (n : Nat) : (s.retire d v n).clusters = s.clusters := rfl
@[simp] theorem State.retire_mem (s : State) (d : SReg) (v : Word) (n : Nat) : (s.retire d v n).mem = s.mem := rfl
@[simp] theorem State.retire_poison (s : State) (d : SReg) (v : Word) (n : Nat) : (s.retire d v n).poison = s.poison := rfl
@[simp] theorem State.retire_loc (s : State) (d : SReg) (v : Word) (n : Nat) : (s.retire d v n).loc = s.loc := rfl
@[simp] theorem State.retire_locPoison (s : State) (d : SReg) (v : Word) (n : Nat) : (s.retire d v n).locPoison = s.locPoison := rfl
@[simp] theorem State.retire_coh (s : State) (d : SReg) (v : Word) (n : Nat) : (s.retire d v n).coh = s.coh := rfl
@[simp] theorem State.retire_part (s : State) (d : SReg) (v : Word) (n : Nat) : (s.retire d v n).part = s.part := rfl
@[simp] theorem State.retire_deps (s : State) (d : SReg) (v : Word) (n : Nat) : (s.retire d v n).deps = s.deps := rfl
@[simp] theorem State.retire_agenda (s : State) (d : SReg) (v : Word) (n : Nat) : (s.retire d v n).agenda = s.agenda := rfl
@[simp] theorem State.retire_slowEp (s : State) (d : SReg) (v : Word) (n : Nat) : (s.retire d v n).slowEp = s.slowEp := rfl
@[simp] theorem State.retire_issued (s : State) (d : SReg) (v : Word) (n : Nat) : (s.retire d v n).issued = s.issued := rfl
@[simp] theorem State.retire_free (s : State) (d : SReg) (v : Word) (n : Nat) : (s.retire d v n).free = s.free := rfl

/-- A result written and the instruction done: the destination, the pc, and no wait. -/
@[simp] theorem State.retire_core (s : State) (d : SReg) (v : Word) (n : Nat) :
    (s.retire d v n).core = { s.core.setSreg d v with pc := (s.core.setSreg d v).pc + BitVec.ofNat 64 n, wait := .none } := rfl

@[simp] theorem setCl_core (s : State) (c : Fin 128) (x : Cluster) : (setCl s c x).core = s.core := rfl
@[simp] theorem setCl_rest (s : State) (c : Fin 128) (x : Cluster) : (setCl s c x).rest = s.rest := rfl
@[simp] theorem setCl_mem (s : State) (c : Fin 128) (x : Cluster) : (setCl s c x).mem = s.mem := rfl
@[simp] theorem setCl_poison (s : State) (c : Fin 128) (x : Cluster) : (setCl s c x).poison = s.poison := rfl
@[simp] theorem setCl_loc (s : State) (c : Fin 128) (x : Cluster) : (setCl s c x).loc = s.loc := rfl
@[simp] theorem setCl_locPoison (s : State) (c : Fin 128) (x : Cluster) : (setCl s c x).locPoison = s.locPoison := rfl
@[simp] theorem setCl_coh (s : State) (c : Fin 128) (x : Cluster) : (setCl s c x).coh = s.coh := rfl
@[simp] theorem setCl_part (s : State) (c : Fin 128) (x : Cluster) : (setCl s c x).part = s.part := rfl
@[simp] theorem setCl_deps (s : State) (c : Fin 128) (x : Cluster) : (setCl s c x).deps = s.deps := rfl
@[simp] theorem setCl_agenda (s : State) (c : Fin 128) (x : Cluster) : (setCl s c x).agenda = s.agenda := rfl
@[simp] theorem setCl_slowEp (s : State) (c : Fin 128) (x : Cluster) : (setCl s c x).slowEp = s.slowEp := rfl
@[simp] theorem setCl_issued (s : State) (c : Fin 128) (x : Cluster) : (setCl s c x).issued = s.issued := rfl
@[simp] theorem setCl_free (s : State) (c : Fin 128) (x : Cluster) : (setCl s c x).free = s.free := rfl

@[simp] theorem updCl_core (s : State) (c : Fin 128) (x : Cluster → Cluster) : (updCl s c x).core = s.core := rfl
@[simp] theorem updCl_rest (s : State) (c : Fin 128) (x : Cluster → Cluster) : (updCl s c x).rest = s.rest := rfl
@[simp] theorem updCl_mem (s : State) (c : Fin 128) (x : Cluster → Cluster) : (updCl s c x).mem = s.mem := rfl
@[simp] theorem updCl_poison (s : State) (c : Fin 128) (x : Cluster → Cluster) : (updCl s c x).poison = s.poison := rfl
@[simp] theorem updCl_loc (s : State) (c : Fin 128) (x : Cluster → Cluster) : (updCl s c x).loc = s.loc := rfl
@[simp] theorem updCl_locPoison (s : State) (c : Fin 128) (x : Cluster → Cluster) : (updCl s c x).locPoison = s.locPoison := rfl
@[simp] theorem updCl_coh (s : State) (c : Fin 128) (x : Cluster → Cluster) : (updCl s c x).coh = s.coh := rfl
@[simp] theorem updCl_part (s : State) (c : Fin 128) (x : Cluster → Cluster) : (updCl s c x).part = s.part := rfl
@[simp] theorem updCl_deps (s : State) (c : Fin 128) (x : Cluster → Cluster) : (updCl s c x).deps = s.deps := rfl
@[simp] theorem updCl_agenda (s : State) (c : Fin 128) (x : Cluster → Cluster) : (updCl s c x).agenda = s.agenda := rfl
@[simp] theorem updCl_slowEp (s : State) (c : Fin 128) (x : Cluster → Cluster) : (updCl s c x).slowEp = s.slowEp := rfl
@[simp] theorem updCl_issued (s : State) (c : Fin 128) (x : Cluster → Cluster) : (updCl s c x).issued = s.issued := rfl
@[simp] theorem updCl_free (s : State) (c : Fin 128) (x : Cluster → Cluster) : (updCl s c x).free = s.free := rfl

@[simp] theorem getCl_setCl_same (s : State) (c : Fin 128) (x : Cluster) : getCl (setCl s c x) c = x := by
  simp [getCl, setCl]

theorem getCl_setCl_other (s : State) (c d : Fin 128) (x : Cluster) (h : c ≠ d) : getCl (setCl s c x) d = getCl s d := by
  have : c.val ≠ d.val := fun e => h (Fin.ext e)
  simp [getCl, setCl, this]

/-! ## Updates of a core -/

/-- s0 discards a write (R35, R137). -/
@[simp] theorem Core.setSreg_zero (c : Core) (v : Word) : c.setSreg 0 v = c := by simp [Core.setSreg]

/-- A register other than s0 holds what was written. -/
theorem Core.sreg_setSreg_same (c : Core) (r : SReg) (v : Word) (h : r ≠ 0) : (c.setSreg r v).sreg r = v := by
  simp [Core.sreg, Core.setSreg, h]

/-- Every other register is left. -/
theorem Core.sreg_setSreg_other (c : Core) (r x : SReg) (v : Word) (h : x ≠ r) : (c.setSreg r v).sreg x = c.sreg x := by
  have : ¬ r.val = x.val := fun e => h (Fin.ext e.symm)
  by_cases hr : r = 0
  · simp [Core.sreg, Core.setSreg, hr]
  · by_cases hx : x = 0 <;> simp [Core.sreg, Core.setSreg, hr, hx, this]

/-- s0 reads zero. -/
@[simp] theorem Core.sreg_zero (c : Core) : c.sreg 0 = 0 := by simp [Core.sreg]

@[simp] theorem Core.setSreg_index (c : Core) (r : SReg) (v : Word) : (c.setSreg r v).index = c.index := by
  unfold Core.setSreg; split <;> rfl
@[simp] theorem Core.setSreg_run (c : Core) (r : SReg) (v : Word) : (c.setSreg r v).run = c.run := by
  unfold Core.setSreg; split <;> rfl
@[simp] theorem Core.setSreg_held (c : Core) (r : SReg) (v : Word) : (c.setSreg r v).held = c.held := by
  unfold Core.setSreg; split <;> rfl
@[simp] theorem Core.setSreg_late (c : Core) (r : SReg) (v : Word) : (c.setSreg r v).late = c.late := by
  unfold Core.setSreg; split <;> rfl
@[simp] theorem Core.setSreg_pc (c : Core) (r : SReg) (v : Word) : (c.setSreg r v).pc = c.pc := by
  unfold Core.setSreg; split <;> rfl
@[simp] theorem Core.setSreg_sBank (c : Core) (r : SReg) (v : Word) : (c.setSreg r v).sBank = c.sBank := by
  unfold Core.setSreg; split <;> rfl
@[simp] theorem Core.setSreg_vl (c : Core) (r : SReg) (v : Word) : (c.setSreg r v).vl = c.vl := by
  unfold Core.setSreg; split <;> rfl
@[simp] theorem Core.setSreg_stripBase (c : Core) (r : SReg) (v : Word) : (c.setSreg r v).stripBase = c.stripBase := by
  unfold Core.setSreg; split <;> rfl
@[simp] theorem Core.setSreg_stripNext (c : Core) (r : SReg) (v : Word) : (c.setSreg r v).stripNext = c.stripNext := by
  unfold Core.setSreg; split <;> rfl
@[simp] theorem Core.setSreg_rm (c : Core) (r : SReg) (v : Word) : (c.setSreg r v).rm = c.rm := by
  unfold Core.setSreg; split <;> rfl
@[simp] theorem Core.setSreg_seed (c : Core) (r : SReg) (v : Word) : (c.setSreg r v).seed = c.seed := by
  unfold Core.setSreg; split <;> rfl
@[simp] theorem Core.setSreg_resync (c : Core) (r : SReg) (v : Word) : (c.setSreg r v).resync = c.resync := by
  unfold Core.setSreg; split <;> rfl
@[simp] theorem Core.setSreg_team (c : Core) (r : SReg) (v : Word) : (c.setSreg r v).team = c.team := by
  unfold Core.setSreg; split <;> rfl
@[simp] theorem Core.setSreg_wait (c : Core) (r : SReg) (v : Word) : (c.setSreg r v).wait = c.wait := by
  unfold Core.setSreg; split <;> rfl
@[simp] theorem Core.setSreg_view (c : Core) (r : SReg) (v : Word) : (c.setSreg r v).view = c.view := by
  unfold Core.setSreg; split <;> rfl
@[simp] theorem Core.setSreg_entry (c : Core) (r : SReg) (v : Word) : (c.setSreg r v).entry = c.entry := by
  unfold Core.setSreg; split <;> rfl
@[simp] theorem Core.setSreg_v (c : Core) (r : SReg) (v : Word) : (c.setSreg r v).v = c.v := by
  unfold Core.setSreg; split <;> rfl
@[simp] theorem Core.setSreg_poisonV (c : Core) (r : SReg) (v : Word) : (c.setSreg r v).poisonV = c.poisonV := by
  unfold Core.setSreg; split <;> rfl
@[simp] theorem Core.setSreg_m (c : Core) (r : SReg) (v : Word) : (c.setSreg r v).m = c.m := by
  unfold Core.setSreg; split <;> rfl
@[simp] theorem Core.setSreg_k (c : Core) (r : SReg) (v : Word) : (c.setSreg r v).k = c.k := by
  unfold Core.setSreg; split <;> rfl
@[simp] theorem Core.setSreg_vq (c : Core) (r : SReg) (v : Word) : (c.setSreg r v).vq = c.vq := by
  unfold Core.setSreg; split <;> rfl
@[simp] theorem Core.setSreg_q4 (c : Core) (r : SReg) (v : Word) : (c.setSreg r v).q4 = c.q4 := by
  unfold Core.setSreg; split <;> rfl
@[simp] theorem Core.setSreg_q5 (c : Core) (r : SReg) (v : Word) : (c.setSreg r v).q5 = c.q5 := by
  unfold Core.setSreg; split <;> rfl
@[simp] theorem Core.setSreg_q6 (c : Core) (r : SReg) (v : Word) : (c.setSreg r v).q6 = c.q6 := by
  unfold Core.setSreg; split <;> rfl
@[simp] theorem Core.setSreg_q7 (c : Core) (r : SReg) (v : Word) : (c.setSreg r v).q7 = c.q7 := by
  unfold Core.setSreg; split <;> rfl
@[simp] theorem Core.setSreg_viq (c : Core) (r : SReg) (v : Word) : (c.setSreg r v).viq = c.viq := by
  unfold Core.setSreg; split <;> rfl
@[simp] theorem Core.setSreg_vmq (c : Core) (r : SReg) (v : Word) : (c.setSreg r v).vmq = c.vmq := by
  unfold Core.setSreg; split <;> rfl
@[simp] theorem Core.setSreg_seq (c : Core) (r : SReg) (v : Word) : (c.setSreg r v).seq = c.seq := by
  unfold Core.setSreg; split <;> rfl
@[simp] theorem Core.setSreg_acqSeq (c : Core) (r : SReg) (v : Word) : (c.setSreg r v).acqSeq = c.acqSeq := by
  unfold Core.setSreg; split <;> rfl
@[simp] theorem Core.setSreg_defer (c : Core) (r : SReg) (v : Word) : (c.setSreg r v).defer = c.defer := by
  unfold Core.setSreg; split <;> rfl
@[simp] theorem Core.setSreg_pmask (c : Core) (r : SReg) (v : Word) : (c.setSreg r v).pmask = c.pmask := by
  unfold Core.setSreg; split <;> rfl
@[simp] theorem Core.setSreg_tiles (c : Core) (r : SReg) (v : Word) : (c.setSreg r v).tiles = c.tiles := by
  unfold Core.setSreg; split <;> rfl
@[simp] theorem Core.setSreg_want (c : Core) (r : SReg) (v : Word) : (c.setSreg r v).want = c.want := by
  unfold Core.setSreg; split <;> rfl
@[simp] theorem Core.setSreg_acc (c : Core) (r : SReg) (v : Word) : (c.setSreg r v).acc = c.acc := by
  unfold Core.setSreg; split <;> rfl
@[simp] theorem Core.setSreg_lanes (c : Core) (r : SReg) (v : Word) : (c.setSreg r v).lanes = c.lanes := by
  unfold Core.setSreg; split <;> rfl
@[simp] theorem Core.setSreg_z (c : Core) (r : SReg) (v : Word) : (c.setSreg r v).z = c.z := by
  unfold Core.setSreg; split <;> rfl
@[simp] theorem Core.setSreg_copies (c : Core) (r : SReg) (v : Word) : (c.setSreg r v).copies = c.copies := by
  unfold Core.setSreg; split <;> rfl
@[simp] theorem Core.setSreg_streams (c : Core) (r : SReg) (v : Word) : (c.setSreg r v).streams = c.streams := by
  unfold Core.setSreg; split <;> rfl
@[simp] theorem Core.setSreg_mats (c : Core) (r : SReg) (v : Word) : (c.setSreg r v).mats = c.mats := by
  unfold Core.setSreg; split <;> rfl
@[simp] theorem Core.setSreg_colls (c : Core) (r : SReg) (v : Word) : (c.setSreg r v).colls = c.colls := by
  unfold Core.setSreg; split <;> rfl
@[simp] theorem Core.setSreg_adv (c : Core) (r : SReg) (v : Word) : (c.setSreg r v).adv = c.adv := by
  unfold Core.setSreg; split <;> rfl
@[simp] theorem Core.setSreg_advCnt (c : Core) (r : SReg) (v : Word) : (c.setSreg r v).advCnt = c.advCnt := by
  unfold Core.setSreg; split <;> rfl
@[simp] theorem Core.setSreg_xmask (c : Core) (r : SReg) (v : Word) : (c.setSreg r v).xmask = c.xmask := by
  unfold Core.setSreg; split <;> rfl
@[simp] theorem Core.setSreg_alcCeil (c : Core) (r : SReg) (v : Word) : (c.setSreg r v).alcCeil = c.alcCeil := by
  unfold Core.setSreg; split <;> rfl
@[simp] theorem Core.setSreg_alcCur (c : Core) (r : SReg) (v : Word) : (c.setSreg r v).alcCur = c.alcCur := by
  unfold Core.setSreg; split <;> rfl
@[simp] theorem Core.setSreg_lmap (c : Core) (r : SReg) (v : Word) : (c.setSreg r v).lmap = c.lmap := by
  unfold Core.setSreg; split <;> rfl
@[simp] theorem Core.setSreg_idleEdges (c : Core) (r : SReg) (v : Word) : (c.setSreg r v).idleEdges = c.idleEdges := by
  unfold Core.setSreg; split <;> rfl
@[simp] theorem Core.setSreg_gated (c : Core) (r : SReg) (v : Word) : (c.setSreg r v).gated = c.gated := by
  unfold Core.setSreg; split <;> rfl
@[simp] theorem Core.setSreg_freeze (c : Core) (r : SReg) (v : Word) : (c.setSreg r v).freeze = c.freeze := by
  unfold Core.setSreg; split <;> rfl
@[simp] theorem Core.setSreg_cgid (c : Core) (r : SReg) (v : Word) : (c.setSreg r v).cgid = c.cgid := by
  unfold Core.setSreg; split <;> rfl
@[simp] theorem Core.setSreg_part (c : Core) (r : SReg) (v : Word) : (c.setSreg r v).part = c.part := by
  unfold Core.setSreg; split <;> rfl
@[simp] theorem Core.setSreg_vdid (c : Core) (r : SReg) (v : Word) : (c.setSreg r v).vdid = c.vdid := by
  unfold Core.setSreg; split <;> rfl
@[simp] theorem Core.setSreg_capbase (c : Core) (r : SReg) (v : Word) : (c.setSreg r v).capbase = c.capbase := by
  unfold Core.setSreg; split <;> rfl
@[simp] theorem Core.setSreg_inflSel (c : Core) (r : SReg) (v : Word) : (c.setSreg r v).inflSel = c.inflSel := by
  unfold Core.setSreg; split <;> rfl
@[simp] theorem Core.setSreg_waddr (c : Core) (r : SReg) (v : Word) : (c.setSreg r v).waddr = c.waddr := by
  unfold Core.setSreg; split <;> rfl
@[simp] theorem Core.setSreg_put (c : Core) (r : SReg) (v : Word) : (c.setSreg r v).put = c.put := by
  unfold Core.setSreg; split <;> rfl
@[simp] theorem Core.setSreg_icache (c : Core) (r : SReg) (v : Word) : (c.setSreg r v).icache = c.icache := by
  unfold Core.setSreg; split <;> rfl
@[simp] theorem Core.setSreg_tlb (c : Core) (r : SReg) (v : Word) : (c.setSreg r v).tlb = c.tlb := by
  unfold Core.setSreg; split <;> rfl
@[simp] theorem Core.setSreg_dbg (c : Core) (r : SReg) (v : Word) : (c.setSreg r v).dbg = c.dbg := by
  unfold Core.setSreg; split <;> rfl
@[simp] theorem Core.setSreg_stripNs (c : Core) (r : SReg) (v : Word) : (c.setSreg r v).stripNs = c.stripNs := by
  unfold Core.setSreg; split <;> rfl
@[simp] theorem Core.setSreg_saveBad (c : Core) (r : SReg) (v : Word) : (c.setSreg r v).saveBad = c.saveBad := by
  unfold Core.setSreg; split <;> rfl
@[simp] theorem Core.setSreg_queueEdges (c : Core) (r : SReg) (v : Word) : (c.setSreg r v).queueEdges = c.queueEdges := by
  unfold Core.setSreg; split <;> rfl
@[simp] theorem Core.setSreg_timing (c : Core) (r : SReg) (v : Word) : (c.setSreg r v).timing = c.timing := by
  unfold Core.setSreg; split <;> rfl

@[simp] theorem Core.setVreg_index (c : Core) (r : VReg) (x : Vec) : (c.setVreg r x).index = c.index := rfl
@[simp] theorem Core.setVreg_run (c : Core) (r : VReg) (x : Vec) : (c.setVreg r x).run = c.run := rfl
@[simp] theorem Core.setVreg_held (c : Core) (r : VReg) (x : Vec) : (c.setVreg r x).held = c.held := rfl
@[simp] theorem Core.setVreg_late (c : Core) (r : VReg) (x : Vec) : (c.setVreg r x).late = c.late := rfl
@[simp] theorem Core.setVreg_pc (c : Core) (r : VReg) (x : Vec) : (c.setVreg r x).pc = c.pc := rfl
@[simp] theorem Core.setVreg_s (c : Core) (r : VReg) (x : Vec) : (c.setVreg r x).s = c.s := rfl
@[simp] theorem Core.setVreg_sBank (c : Core) (r : VReg) (x : Vec) : (c.setVreg r x).sBank = c.sBank := rfl
@[simp] theorem Core.setVreg_vl (c : Core) (r : VReg) (x : Vec) : (c.setVreg r x).vl = c.vl := rfl
@[simp] theorem Core.setVreg_stripBase (c : Core) (r : VReg) (x : Vec) : (c.setVreg r x).stripBase = c.stripBase := rfl
@[simp] theorem Core.setVreg_stripNext (c : Core) (r : VReg) (x : Vec) : (c.setVreg r x).stripNext = c.stripNext := rfl
@[simp] theorem Core.setVreg_rm (c : Core) (r : VReg) (x : Vec) : (c.setVreg r x).rm = c.rm := rfl
@[simp] theorem Core.setVreg_seed (c : Core) (r : VReg) (x : Vec) : (c.setVreg r x).seed = c.seed := rfl
@[simp] theorem Core.setVreg_resync (c : Core) (r : VReg) (x : Vec) : (c.setVreg r x).resync = c.resync := rfl
@[simp] theorem Core.setVreg_team (c : Core) (r : VReg) (x : Vec) : (c.setVreg r x).team = c.team := rfl
@[simp] theorem Core.setVreg_wait (c : Core) (r : VReg) (x : Vec) : (c.setVreg r x).wait = c.wait := rfl
@[simp] theorem Core.setVreg_view (c : Core) (r : VReg) (x : Vec) : (c.setVreg r x).view = c.view := rfl
@[simp] theorem Core.setVreg_entry (c : Core) (r : VReg) (x : Vec) : (c.setVreg r x).entry = c.entry := rfl
@[simp] theorem Core.setVreg_m (c : Core) (r : VReg) (x : Vec) : (c.setVreg r x).m = c.m := rfl
@[simp] theorem Core.setVreg_k (c : Core) (r : VReg) (x : Vec) : (c.setVreg r x).k = c.k := rfl
@[simp] theorem Core.setVreg_vq (c : Core) (r : VReg) (x : Vec) : (c.setVreg r x).vq = c.vq := rfl
@[simp] theorem Core.setVreg_q4 (c : Core) (r : VReg) (x : Vec) : (c.setVreg r x).q4 = c.q4 := rfl
@[simp] theorem Core.setVreg_q5 (c : Core) (r : VReg) (x : Vec) : (c.setVreg r x).q5 = c.q5 := rfl
@[simp] theorem Core.setVreg_q6 (c : Core) (r : VReg) (x : Vec) : (c.setVreg r x).q6 = c.q6 := rfl
@[simp] theorem Core.setVreg_q7 (c : Core) (r : VReg) (x : Vec) : (c.setVreg r x).q7 = c.q7 := rfl
@[simp] theorem Core.setVreg_viq (c : Core) (r : VReg) (x : Vec) : (c.setVreg r x).viq = c.viq := rfl
@[simp] theorem Core.setVreg_vmq (c : Core) (r : VReg) (x : Vec) : (c.setVreg r x).vmq = c.vmq := rfl
@[simp] theorem Core.setVreg_seq (c : Core) (r : VReg) (x : Vec) : (c.setVreg r x).seq = c.seq := rfl
@[simp] theorem Core.setVreg_acqSeq (c : Core) (r : VReg) (x : Vec) : (c.setVreg r x).acqSeq = c.acqSeq := rfl
@[simp] theorem Core.setVreg_defer (c : Core) (r : VReg) (x : Vec) : (c.setVreg r x).defer = c.defer := rfl
@[simp] theorem Core.setVreg_pmask (c : Core) (r : VReg) (x : Vec) : (c.setVreg r x).pmask = c.pmask := rfl
@[simp] theorem Core.setVreg_tiles (c : Core) (r : VReg) (x : Vec) : (c.setVreg r x).tiles = c.tiles := rfl
@[simp] theorem Core.setVreg_want (c : Core) (r : VReg) (x : Vec) : (c.setVreg r x).want = c.want := rfl
@[simp] theorem Core.setVreg_acc (c : Core) (r : VReg) (x : Vec) : (c.setVreg r x).acc = c.acc := rfl
@[simp] theorem Core.setVreg_lanes (c : Core) (r : VReg) (x : Vec) : (c.setVreg r x).lanes = c.lanes := rfl
@[simp] theorem Core.setVreg_z (c : Core) (r : VReg) (x : Vec) : (c.setVreg r x).z = c.z := rfl
@[simp] theorem Core.setVreg_copies (c : Core) (r : VReg) (x : Vec) : (c.setVreg r x).copies = c.copies := rfl
@[simp] theorem Core.setVreg_streams (c : Core) (r : VReg) (x : Vec) : (c.setVreg r x).streams = c.streams := rfl
@[simp] theorem Core.setVreg_mats (c : Core) (r : VReg) (x : Vec) : (c.setVreg r x).mats = c.mats := rfl
@[simp] theorem Core.setVreg_colls (c : Core) (r : VReg) (x : Vec) : (c.setVreg r x).colls = c.colls := rfl
@[simp] theorem Core.setVreg_adv (c : Core) (r : VReg) (x : Vec) : (c.setVreg r x).adv = c.adv := rfl
@[simp] theorem Core.setVreg_advCnt (c : Core) (r : VReg) (x : Vec) : (c.setVreg r x).advCnt = c.advCnt := rfl
@[simp] theorem Core.setVreg_xmask (c : Core) (r : VReg) (x : Vec) : (c.setVreg r x).xmask = c.xmask := rfl
@[simp] theorem Core.setVreg_alcCeil (c : Core) (r : VReg) (x : Vec) : (c.setVreg r x).alcCeil = c.alcCeil := rfl
@[simp] theorem Core.setVreg_alcCur (c : Core) (r : VReg) (x : Vec) : (c.setVreg r x).alcCur = c.alcCur := rfl
@[simp] theorem Core.setVreg_lmap (c : Core) (r : VReg) (x : Vec) : (c.setVreg r x).lmap = c.lmap := rfl
@[simp] theorem Core.setVreg_idleEdges (c : Core) (r : VReg) (x : Vec) : (c.setVreg r x).idleEdges = c.idleEdges := rfl
@[simp] theorem Core.setVreg_gated (c : Core) (r : VReg) (x : Vec) : (c.setVreg r x).gated = c.gated := rfl
@[simp] theorem Core.setVreg_freeze (c : Core) (r : VReg) (x : Vec) : (c.setVreg r x).freeze = c.freeze := rfl
@[simp] theorem Core.setVreg_cgid (c : Core) (r : VReg) (x : Vec) : (c.setVreg r x).cgid = c.cgid := rfl
@[simp] theorem Core.setVreg_part (c : Core) (r : VReg) (x : Vec) : (c.setVreg r x).part = c.part := rfl
@[simp] theorem Core.setVreg_vdid (c : Core) (r : VReg) (x : Vec) : (c.setVreg r x).vdid = c.vdid := rfl
@[simp] theorem Core.setVreg_capbase (c : Core) (r : VReg) (x : Vec) : (c.setVreg r x).capbase = c.capbase := rfl
@[simp] theorem Core.setVreg_inflSel (c : Core) (r : VReg) (x : Vec) : (c.setVreg r x).inflSel = c.inflSel := rfl
@[simp] theorem Core.setVreg_waddr (c : Core) (r : VReg) (x : Vec) : (c.setVreg r x).waddr = c.waddr := rfl
@[simp] theorem Core.setVreg_put (c : Core) (r : VReg) (x : Vec) : (c.setVreg r x).put = c.put := rfl
@[simp] theorem Core.setVreg_icache (c : Core) (r : VReg) (x : Vec) : (c.setVreg r x).icache = c.icache := rfl
@[simp] theorem Core.setVreg_tlb (c : Core) (r : VReg) (x : Vec) : (c.setVreg r x).tlb = c.tlb := rfl
@[simp] theorem Core.setVreg_dbg (c : Core) (r : VReg) (x : Vec) : (c.setVreg r x).dbg = c.dbg := rfl
@[simp] theorem Core.setVreg_stripNs (c : Core) (r : VReg) (x : Vec) : (c.setVreg r x).stripNs = c.stripNs := rfl
@[simp] theorem Core.setVreg_saveBad (c : Core) (r : VReg) (x : Vec) : (c.setVreg r x).saveBad = c.saveBad := rfl
@[simp] theorem Core.setVreg_queueEdges (c : Core) (r : VReg) (x : Vec) : (c.setVreg r x).queueEdges = c.queueEdges := rfl
@[simp] theorem Core.setVreg_timing (c : Core) (r : VReg) (x : Vec) : (c.setVreg r x).timing = c.timing := rfl

@[simp] theorem Core.setM_index (c : Core) (r : MReg) (x : Mask) : (c.setM r x).index = c.index := rfl
@[simp] theorem Core.setM_run (c : Core) (r : MReg) (x : Mask) : (c.setM r x).run = c.run := rfl
@[simp] theorem Core.setM_held (c : Core) (r : MReg) (x : Mask) : (c.setM r x).held = c.held := rfl
@[simp] theorem Core.setM_late (c : Core) (r : MReg) (x : Mask) : (c.setM r x).late = c.late := rfl
@[simp] theorem Core.setM_pc (c : Core) (r : MReg) (x : Mask) : (c.setM r x).pc = c.pc := rfl
@[simp] theorem Core.setM_s (c : Core) (r : MReg) (x : Mask) : (c.setM r x).s = c.s := rfl
@[simp] theorem Core.setM_sBank (c : Core) (r : MReg) (x : Mask) : (c.setM r x).sBank = c.sBank := rfl
@[simp] theorem Core.setM_vl (c : Core) (r : MReg) (x : Mask) : (c.setM r x).vl = c.vl := rfl
@[simp] theorem Core.setM_stripBase (c : Core) (r : MReg) (x : Mask) : (c.setM r x).stripBase = c.stripBase := rfl
@[simp] theorem Core.setM_stripNext (c : Core) (r : MReg) (x : Mask) : (c.setM r x).stripNext = c.stripNext := rfl
@[simp] theorem Core.setM_rm (c : Core) (r : MReg) (x : Mask) : (c.setM r x).rm = c.rm := rfl
@[simp] theorem Core.setM_seed (c : Core) (r : MReg) (x : Mask) : (c.setM r x).seed = c.seed := rfl
@[simp] theorem Core.setM_resync (c : Core) (r : MReg) (x : Mask) : (c.setM r x).resync = c.resync := rfl
@[simp] theorem Core.setM_team (c : Core) (r : MReg) (x : Mask) : (c.setM r x).team = c.team := rfl
@[simp] theorem Core.setM_wait (c : Core) (r : MReg) (x : Mask) : (c.setM r x).wait = c.wait := rfl
@[simp] theorem Core.setM_view (c : Core) (r : MReg) (x : Mask) : (c.setM r x).view = c.view := rfl
@[simp] theorem Core.setM_entry (c : Core) (r : MReg) (x : Mask) : (c.setM r x).entry = c.entry := rfl
@[simp] theorem Core.setM_v (c : Core) (r : MReg) (x : Mask) : (c.setM r x).v = c.v := rfl
@[simp] theorem Core.setM_poisonV (c : Core) (r : MReg) (x : Mask) : (c.setM r x).poisonV = c.poisonV := rfl
@[simp] theorem Core.setM_k (c : Core) (r : MReg) (x : Mask) : (c.setM r x).k = c.k := rfl
@[simp] theorem Core.setM_vq (c : Core) (r : MReg) (x : Mask) : (c.setM r x).vq = c.vq := rfl
@[simp] theorem Core.setM_q4 (c : Core) (r : MReg) (x : Mask) : (c.setM r x).q4 = c.q4 := rfl
@[simp] theorem Core.setM_q5 (c : Core) (r : MReg) (x : Mask) : (c.setM r x).q5 = c.q5 := rfl
@[simp] theorem Core.setM_q6 (c : Core) (r : MReg) (x : Mask) : (c.setM r x).q6 = c.q6 := rfl
@[simp] theorem Core.setM_q7 (c : Core) (r : MReg) (x : Mask) : (c.setM r x).q7 = c.q7 := rfl
@[simp] theorem Core.setM_viq (c : Core) (r : MReg) (x : Mask) : (c.setM r x).viq = c.viq := rfl
@[simp] theorem Core.setM_vmq (c : Core) (r : MReg) (x : Mask) : (c.setM r x).vmq = c.vmq := rfl
@[simp] theorem Core.setM_seq (c : Core) (r : MReg) (x : Mask) : (c.setM r x).seq = c.seq := rfl
@[simp] theorem Core.setM_acqSeq (c : Core) (r : MReg) (x : Mask) : (c.setM r x).acqSeq = c.acqSeq := rfl
@[simp] theorem Core.setM_defer (c : Core) (r : MReg) (x : Mask) : (c.setM r x).defer = c.defer := rfl
@[simp] theorem Core.setM_pmask (c : Core) (r : MReg) (x : Mask) : (c.setM r x).pmask = c.pmask := rfl
@[simp] theorem Core.setM_tiles (c : Core) (r : MReg) (x : Mask) : (c.setM r x).tiles = c.tiles := rfl
@[simp] theorem Core.setM_want (c : Core) (r : MReg) (x : Mask) : (c.setM r x).want = c.want := rfl
@[simp] theorem Core.setM_acc (c : Core) (r : MReg) (x : Mask) : (c.setM r x).acc = c.acc := rfl
@[simp] theorem Core.setM_lanes (c : Core) (r : MReg) (x : Mask) : (c.setM r x).lanes = c.lanes := rfl
@[simp] theorem Core.setM_z (c : Core) (r : MReg) (x : Mask) : (c.setM r x).z = c.z := rfl
@[simp] theorem Core.setM_copies (c : Core) (r : MReg) (x : Mask) : (c.setM r x).copies = c.copies := rfl
@[simp] theorem Core.setM_streams (c : Core) (r : MReg) (x : Mask) : (c.setM r x).streams = c.streams := rfl
@[simp] theorem Core.setM_mats (c : Core) (r : MReg) (x : Mask) : (c.setM r x).mats = c.mats := rfl
@[simp] theorem Core.setM_colls (c : Core) (r : MReg) (x : Mask) : (c.setM r x).colls = c.colls := rfl
@[simp] theorem Core.setM_adv (c : Core) (r : MReg) (x : Mask) : (c.setM r x).adv = c.adv := rfl
@[simp] theorem Core.setM_advCnt (c : Core) (r : MReg) (x : Mask) : (c.setM r x).advCnt = c.advCnt := rfl
@[simp] theorem Core.setM_xmask (c : Core) (r : MReg) (x : Mask) : (c.setM r x).xmask = c.xmask := rfl
@[simp] theorem Core.setM_alcCeil (c : Core) (r : MReg) (x : Mask) : (c.setM r x).alcCeil = c.alcCeil := rfl
@[simp] theorem Core.setM_alcCur (c : Core) (r : MReg) (x : Mask) : (c.setM r x).alcCur = c.alcCur := rfl
@[simp] theorem Core.setM_lmap (c : Core) (r : MReg) (x : Mask) : (c.setM r x).lmap = c.lmap := rfl
@[simp] theorem Core.setM_idleEdges (c : Core) (r : MReg) (x : Mask) : (c.setM r x).idleEdges = c.idleEdges := rfl
@[simp] theorem Core.setM_gated (c : Core) (r : MReg) (x : Mask) : (c.setM r x).gated = c.gated := rfl
@[simp] theorem Core.setM_freeze (c : Core) (r : MReg) (x : Mask) : (c.setM r x).freeze = c.freeze := rfl
@[simp] theorem Core.setM_cgid (c : Core) (r : MReg) (x : Mask) : (c.setM r x).cgid = c.cgid := rfl
@[simp] theorem Core.setM_part (c : Core) (r : MReg) (x : Mask) : (c.setM r x).part = c.part := rfl
@[simp] theorem Core.setM_vdid (c : Core) (r : MReg) (x : Mask) : (c.setM r x).vdid = c.vdid := rfl
@[simp] theorem Core.setM_capbase (c : Core) (r : MReg) (x : Mask) : (c.setM r x).capbase = c.capbase := rfl
@[simp] theorem Core.setM_inflSel (c : Core) (r : MReg) (x : Mask) : (c.setM r x).inflSel = c.inflSel := rfl
@[simp] theorem Core.setM_waddr (c : Core) (r : MReg) (x : Mask) : (c.setM r x).waddr = c.waddr := rfl
@[simp] theorem Core.setM_put (c : Core) (r : MReg) (x : Mask) : (c.setM r x).put = c.put := rfl
@[simp] theorem Core.setM_icache (c : Core) (r : MReg) (x : Mask) : (c.setM r x).icache = c.icache := rfl
@[simp] theorem Core.setM_tlb (c : Core) (r : MReg) (x : Mask) : (c.setM r x).tlb = c.tlb := rfl
@[simp] theorem Core.setM_dbg (c : Core) (r : MReg) (x : Mask) : (c.setM r x).dbg = c.dbg := rfl
@[simp] theorem Core.setM_stripNs (c : Core) (r : MReg) (x : Mask) : (c.setM r x).stripNs = c.stripNs := rfl
@[simp] theorem Core.setM_saveBad (c : Core) (r : MReg) (x : Mask) : (c.setM r x).saveBad = c.saveBad := rfl
@[simp] theorem Core.setM_queueEdges (c : Core) (r : MReg) (x : Mask) : (c.setM r x).queueEdges = c.queueEdges := rfl
@[simp] theorem Core.setM_timing (c : Core) (r : MReg) (x : Mask) : (c.setM r x).timing = c.timing := rfl

@[simp] theorem Core.setK_index (c : Core) (r : KReg) (x : Word) : (c.setK r x).index = c.index := rfl
@[simp] theorem Core.setK_run (c : Core) (r : KReg) (x : Word) : (c.setK r x).run = c.run := rfl
@[simp] theorem Core.setK_held (c : Core) (r : KReg) (x : Word) : (c.setK r x).held = c.held := rfl
@[simp] theorem Core.setK_late (c : Core) (r : KReg) (x : Word) : (c.setK r x).late = c.late := rfl
@[simp] theorem Core.setK_pc (c : Core) (r : KReg) (x : Word) : (c.setK r x).pc = c.pc := rfl
@[simp] theorem Core.setK_s (c : Core) (r : KReg) (x : Word) : (c.setK r x).s = c.s := rfl
@[simp] theorem Core.setK_sBank (c : Core) (r : KReg) (x : Word) : (c.setK r x).sBank = c.sBank := rfl
@[simp] theorem Core.setK_vl (c : Core) (r : KReg) (x : Word) : (c.setK r x).vl = c.vl := rfl
@[simp] theorem Core.setK_stripBase (c : Core) (r : KReg) (x : Word) : (c.setK r x).stripBase = c.stripBase := rfl
@[simp] theorem Core.setK_stripNext (c : Core) (r : KReg) (x : Word) : (c.setK r x).stripNext = c.stripNext := rfl
@[simp] theorem Core.setK_rm (c : Core) (r : KReg) (x : Word) : (c.setK r x).rm = c.rm := rfl
@[simp] theorem Core.setK_seed (c : Core) (r : KReg) (x : Word) : (c.setK r x).seed = c.seed := rfl
@[simp] theorem Core.setK_resync (c : Core) (r : KReg) (x : Word) : (c.setK r x).resync = c.resync := rfl
@[simp] theorem Core.setK_team (c : Core) (r : KReg) (x : Word) : (c.setK r x).team = c.team := rfl
@[simp] theorem Core.setK_wait (c : Core) (r : KReg) (x : Word) : (c.setK r x).wait = c.wait := rfl
@[simp] theorem Core.setK_view (c : Core) (r : KReg) (x : Word) : (c.setK r x).view = c.view := rfl
@[simp] theorem Core.setK_entry (c : Core) (r : KReg) (x : Word) : (c.setK r x).entry = c.entry := rfl
@[simp] theorem Core.setK_v (c : Core) (r : KReg) (x : Word) : (c.setK r x).v = c.v := rfl
@[simp] theorem Core.setK_poisonV (c : Core) (r : KReg) (x : Word) : (c.setK r x).poisonV = c.poisonV := rfl
@[simp] theorem Core.setK_m (c : Core) (r : KReg) (x : Word) : (c.setK r x).m = c.m := rfl
@[simp] theorem Core.setK_vq (c : Core) (r : KReg) (x : Word) : (c.setK r x).vq = c.vq := rfl
@[simp] theorem Core.setK_q4 (c : Core) (r : KReg) (x : Word) : (c.setK r x).q4 = c.q4 := rfl
@[simp] theorem Core.setK_q5 (c : Core) (r : KReg) (x : Word) : (c.setK r x).q5 = c.q5 := rfl
@[simp] theorem Core.setK_q6 (c : Core) (r : KReg) (x : Word) : (c.setK r x).q6 = c.q6 := rfl
@[simp] theorem Core.setK_q7 (c : Core) (r : KReg) (x : Word) : (c.setK r x).q7 = c.q7 := rfl
@[simp] theorem Core.setK_viq (c : Core) (r : KReg) (x : Word) : (c.setK r x).viq = c.viq := rfl
@[simp] theorem Core.setK_vmq (c : Core) (r : KReg) (x : Word) : (c.setK r x).vmq = c.vmq := rfl
@[simp] theorem Core.setK_seq (c : Core) (r : KReg) (x : Word) : (c.setK r x).seq = c.seq := rfl
@[simp] theorem Core.setK_acqSeq (c : Core) (r : KReg) (x : Word) : (c.setK r x).acqSeq = c.acqSeq := rfl
@[simp] theorem Core.setK_defer (c : Core) (r : KReg) (x : Word) : (c.setK r x).defer = c.defer := rfl
@[simp] theorem Core.setK_pmask (c : Core) (r : KReg) (x : Word) : (c.setK r x).pmask = c.pmask := rfl
@[simp] theorem Core.setK_tiles (c : Core) (r : KReg) (x : Word) : (c.setK r x).tiles = c.tiles := rfl
@[simp] theorem Core.setK_want (c : Core) (r : KReg) (x : Word) : (c.setK r x).want = c.want := rfl
@[simp] theorem Core.setK_acc (c : Core) (r : KReg) (x : Word) : (c.setK r x).acc = c.acc := rfl
@[simp] theorem Core.setK_lanes (c : Core) (r : KReg) (x : Word) : (c.setK r x).lanes = c.lanes := rfl
@[simp] theorem Core.setK_z (c : Core) (r : KReg) (x : Word) : (c.setK r x).z = c.z := rfl
@[simp] theorem Core.setK_copies (c : Core) (r : KReg) (x : Word) : (c.setK r x).copies = c.copies := rfl
@[simp] theorem Core.setK_streams (c : Core) (r : KReg) (x : Word) : (c.setK r x).streams = c.streams := rfl
@[simp] theorem Core.setK_mats (c : Core) (r : KReg) (x : Word) : (c.setK r x).mats = c.mats := rfl
@[simp] theorem Core.setK_colls (c : Core) (r : KReg) (x : Word) : (c.setK r x).colls = c.colls := rfl
@[simp] theorem Core.setK_adv (c : Core) (r : KReg) (x : Word) : (c.setK r x).adv = c.adv := rfl
@[simp] theorem Core.setK_advCnt (c : Core) (r : KReg) (x : Word) : (c.setK r x).advCnt = c.advCnt := rfl
@[simp] theorem Core.setK_xmask (c : Core) (r : KReg) (x : Word) : (c.setK r x).xmask = c.xmask := rfl
@[simp] theorem Core.setK_alcCeil (c : Core) (r : KReg) (x : Word) : (c.setK r x).alcCeil = c.alcCeil := rfl
@[simp] theorem Core.setK_alcCur (c : Core) (r : KReg) (x : Word) : (c.setK r x).alcCur = c.alcCur := rfl
@[simp] theorem Core.setK_lmap (c : Core) (r : KReg) (x : Word) : (c.setK r x).lmap = c.lmap := rfl
@[simp] theorem Core.setK_idleEdges (c : Core) (r : KReg) (x : Word) : (c.setK r x).idleEdges = c.idleEdges := rfl
@[simp] theorem Core.setK_gated (c : Core) (r : KReg) (x : Word) : (c.setK r x).gated = c.gated := rfl
@[simp] theorem Core.setK_freeze (c : Core) (r : KReg) (x : Word) : (c.setK r x).freeze = c.freeze := rfl
@[simp] theorem Core.setK_cgid (c : Core) (r : KReg) (x : Word) : (c.setK r x).cgid = c.cgid := rfl
@[simp] theorem Core.setK_part (c : Core) (r : KReg) (x : Word) : (c.setK r x).part = c.part := rfl
@[simp] theorem Core.setK_vdid (c : Core) (r : KReg) (x : Word) : (c.setK r x).vdid = c.vdid := rfl
@[simp] theorem Core.setK_capbase (c : Core) (r : KReg) (x : Word) : (c.setK r x).capbase = c.capbase := rfl
@[simp] theorem Core.setK_inflSel (c : Core) (r : KReg) (x : Word) : (c.setK r x).inflSel = c.inflSel := rfl
@[simp] theorem Core.setK_waddr (c : Core) (r : KReg) (x : Word) : (c.setK r x).waddr = c.waddr := rfl
@[simp] theorem Core.setK_put (c : Core) (r : KReg) (x : Word) : (c.setK r x).put = c.put := rfl
@[simp] theorem Core.setK_icache (c : Core) (r : KReg) (x : Word) : (c.setK r x).icache = c.icache := rfl
@[simp] theorem Core.setK_tlb (c : Core) (r : KReg) (x : Word) : (c.setK r x).tlb = c.tlb := rfl
@[simp] theorem Core.setK_dbg (c : Core) (r : KReg) (x : Word) : (c.setK r x).dbg = c.dbg := rfl
@[simp] theorem Core.setK_stripNs (c : Core) (r : KReg) (x : Word) : (c.setK r x).stripNs = c.stripNs := rfl
@[simp] theorem Core.setK_saveBad (c : Core) (r : KReg) (x : Word) : (c.setK r x).saveBad = c.saveBad := rfl
@[simp] theorem Core.setK_queueEdges (c : Core) (r : KReg) (x : Word) : (c.setK r x).queueEdges = c.queueEdges := rfl
@[simp] theorem Core.setK_timing (c : Core) (r : KReg) (x : Word) : (c.setK r x).timing = c.timing := rfl

/-- A vector register holds what was written, and every other one is left. -/
theorem Core.vreg_setVreg_same (c : Core) (r : VReg) (x : Vec) : (c.setVreg r x).vreg r = x := by
  simp [Core.vreg, Core.setVreg]

theorem Core.vreg_setVreg_other (c : Core) (r y : VReg) (x : Vec) (h : y ≠ r) : (c.setVreg r x).vreg y = c.vreg y := by
  have : ¬ r.val = y.val := fun e => h (Fin.ext e.symm)
  simp [Core.vreg, Core.setVreg, this]

end Sys2Proof.Machine
end

