-- ==== Sys2Proof/Laws/Ops.lean ====
section
/-! SUPPORT. What the shared operations can do: retiring, going on, waking; and that every operation which stores, down to
the taking of a fault and the return from the supervisor, keeps both memories in their canonical form. -/

namespace Sys2Proof.Machine

open Sys2Proof

/-! ## Retiring -/

theorem State.goto_went (s : State) (a : Word) : Went s (s.goto a) a := rfl

theorem State.advance_went (s : State) (n : Nat) : Went s (s.advance n) (s.core.pc + BitVec.ofNat 64 n) := rfl

/-- What retiring with a result does, s0 included (R137). -/
theorem State.retire_wrote (s : State) (d : SReg) (v : Word) (n : Nat) : Wrote s (s.retire d v n) d v n := by
  refine ⟨?_, ?_, ?_⟩
  · by_cases h : d = 0
    · subst h; simp [State.sreg, Core.sreg]
    · simp only [if_neg h]
      exact Core.sreg_setSreg_same s.core d v h
  · intro r h
    exact Core.sreg_setSreg_other s.core d r v h
  · by_cases h : d = 0
    · subst h; rfl
    · simp [State.retire, State.advance, State.goto, State.updCore, State.setSreg, Core.setSreg, if_neg h]

/-! ## Canonical memories -/

theorem Canonical.of_eq {s t : State} (h : Canonical s) (hm : t.mem = s.mem) (hl : t.loc = s.loc) : Canonical t := by
  unfold Canonical at *
  rw [hm, hl]; exact h

theorem Canonical.with_mem {s t : State} (h : Canonical s) (hm : t.mem.wf) (hl : t.loc = s.loc) : Canonical t :=
  ⟨hm, hl ▸ h.2⟩

@[simp] theorem wake_mem (s : State) (l : Bool) (k n : Nat) : (wake s l k n).mem = s.mem := rfl
@[simp] theorem wake_loc (s : State) (l : Bool) (k n : Nat) : (wake s l k n).loc = s.loc := rfl
@[simp] theorem wake_part (s : State) (l : Bool) (k n : Nat) : (wake s l k n).part = s.part := rfl
@[simp] theorem wake_clusters (s : State) (l : Bool) (k n : Nat) : (wake s l k n).clusters = s.clusters := rfl
@[simp] theorem wake_coh (s : State) (l : Bool) (k n : Nat) : (wake s l k n).coh = s.coh := rfl
@[simp] theorem wake_poison (s : State) (l : Bool) (k n : Nat) : (wake s l k n).poison = s.poison := rfl

/-- A wake changes no more of a core than what it waits on, and what its supervisor returns to. -/
theorem wakeCore_calm (m l : Memory) (b : Bool) (k n : Nat) (c : Core) : (wakeCore m l b k n c).calm = c.calm := by
  cases h : c.entry <;> simp [wakeCore, Core.calm, h]

theorem Canonical.updCl {s : State} (c : Fin 128) (f : Cluster → Cluster) (h : Canonical s) : Canonical (updCl s c f) := h

theorem Canonical.setCl {s : State} (c : Fin 128) (x : Cluster) (h : Canonical s) : Canonical (setCl s c x) := h

theorem Canonical.updCore {s : State} (f : Core → Core) (h : Canonical s) : Canonical (s.updCore f) := h

theorem endReuse_mem (s : State) (k n : Nat) : (endReuse s k n).mem = s.mem ∧ (endReuse s k n).loc = s.loc := by
  unfold endReuse
  extract_lets cl off
  clear_value cl off
  split_ifs <;> simp

theorem memPut_canonical {s : State} (pa n v : Nat) (h : Canonical s) : Canonical (memPut s pa n v) :=
  ⟨Memory.writeN_wf n s.mem _ v h.1, h.2⟩

theorem locPut_canonical {s : State} (k n v : Nat) (h : Canonical s) : Canonical (locPut s k n v) := by
  have e := endReuse_mem { s with loc := s.loc.writeN k n v } k n
  refine ⟨?_, ?_⟩
  · show (endReuse { s with loc := s.loc.writeN k n v } k n).mem.wf
    rw [e.1]; exact h.1
  · show (endReuse { s with loc := s.loc.writeN k n v } k n).loc.wf
    rw [e.2]; exact Memory.writeN_wf n s.loc k v h.2

theorem mergeElems_wf (t : UTag) (ps : List (Nat × ULine)) (key : Nat) (m0 : Memory) (n : Nat) :
    ∀ m : Memory, m.wf → (mergeElems t ps key m0 n m).wf := by
  induction n with
  | zero => intro m h; exact h
  | succ n ih =>
    intro m h
    simp only [mergeElems]
    split
    · exact Memory.writeN_wf _ _ _ _ (ih m h)
    · exact ih m h

theorem wBytes_wf (w : WLine) (key n : Nat) : ∀ m : Memory, m.wf → (wBytes w key n m).wf := by
  induction n with
  | zero => intro m h; exact h
  | succ n ih =>
    intro m h
    simp only [wBytes]
    split
    · exact Memory.write_wf _ _ _ (ih m h)
    · exact ih m h

theorem Canonical.mapPart {s : State} (f : Part → Part) (h : Canonical s) : Canonical (mapPart s f) := h

/-- A fold of operations that keep the form keeps it. -/
theorem foldl_canonical {α : Type} (f : State → α → State) (hf : ∀ s a, Canonical s → Canonical (f s a)) (l : List α) :
    ∀ s : State, Canonical s → Canonical (l.foldl f s) := by
  induction l with
  | nil => intro s h; exact h
  | cons a l ih => intro s h; exact ih _ (hf s a h)

theorem gather_canonical {s : State} (line : Nat) (h : Canonical s) : Canonical (gather s line) := h

theorem giveUp_canonical {s : State} (g line : Nat) (h : Canonical s) : Canonical (giveUp s g line) := by
  unfold giveUp
  split <;> exact h

theorem chargeFill_canonical {s : State} (c : Fin 128) (v : BitVec 6) (w : Work) (line : Nat) (h : Canonical s) :
    Canonical (chargeFill s c v w line) := by
  unfold chargeFill
  split <;> exact h

/-! ### Bonded DRAM under two addresses (R69) -/

theorem putLine_canonical {s : State} (line : Nat) (b : BitVec 1024) (h : Canonical s) : Canonical (putLine s line b) :=
  ⟨Memory.writeN_wf _ s.mem _ _ h.1, h.2⟩

theorem settleDirty_canonical {s : State} (line other : Nat) (h : Canonical s) : Canonical (settleDirty s line other) := by
  unfold settleDirty
  split
  · exact h
  · split
    · exact h
    · dsimp only
      split
      · exact h
      · split
        · exact h
        · exact putLine_canonical _ _ (Canonical.of_eq h rfl rfl)
      · exact putLine_canonical _ _ (Canonical.of_eq h rfl rfl)

theorem openAlias_canonical {s : State} (line other : Nat) (h : Canonical s) : Canonical (openAlias s line other) := by
  unfold openAlias
  extract_lets s1 now
  have h1 : Canonical s1 := settleDirty_canonical _ _ (settleDirty_canonical _ _ h)
  have put (b : BitVec 1024) (d : Coherence) : Canonical (putLine { s1 with coh := d } line b) :=
    putLine_canonical _ _ (Canonical.of_eq h1 rfl rfl)
  clear_value s1 now
  cases findDirty s1.coh line with
  | none =>
    cases findDirty s1.coh other with
    | none => exact h1
    | some y =>
      dsimp only
      split
      · exact h1
      · exact put _ _
  | some x =>
    cases x with
    | mk n b o =>
      cases o with
      | none => exact h1
      | some b =>
        cases findDirty s1.coh other with
        | none => exact put _ _
        | some y => exact put _ _

theorem aliasRead_canonical {s : State} (pa : Nat) (h : Canonical s) : Canonical (aliasRead s pa) := by
  unfold aliasRead
  split
  · split
    · exact openAlias_canonical _ _ h
    · exact h
  · exact h

/-- Where the line is dirty under no other address, nothing is to be done. -/
theorem aliasRead_clean {s : State} {pa : Nat} (h : aliasDirty s (lineOf pa) = false) : aliasRead s pa = s := by
  unfold aliasRead
  split
  · simp [h]
  · rfl

theorem noteDirty_canonical {s : State} (line : Nat) (h : Canonical s) : Canonical (noteDirty s line) := by
  unfold noteDirty
  split <;> exact h

/-! ### Lines -/

theorem mergeWith_canonical {s : State} (r : URec) (lost : Bool) (who : Option (BitVec 6)) (h : Canonical s) :
    Canonical (mergeWith s r lost who) := by
  have h1 := aliasRead_canonical (r.line * 128) h
  unfold mergeWith
  generalize aliasRead s (r.line * 128) = u at h1 ⊢
  refine ⟨mergeElems_wf _ _ _ _ _ u.mem h1.1, ?_⟩
  dsimp only [wake_loc]
  cases r.beginner.or who <;> exact h1.2

theorem mergeLine_canonical {s : State} (line : Nat) (who : Option (BitVec 6)) (h : Canonical s) :
    Canonical (mergeLine s line who) := by
  unfold mergeLine
  split
  · exact mergeWith_canonical _ _ _ h
  · exact h

/-- A line that no record has in U is left alone. -/
theorem mergeLine_none {s : State} {line : Nat} (who : Option (BitVec 6)) (h : findURec s.coh line = none) :
    mergeLine s line who = s := by
  simp [mergeLine, h]

theorem flushHome_canonical {s : State} (c : Fin 128) (line : Nat) (h : Canonical s) : Canonical (flushHome s c line) := by
  unfold flushHome
  split
  · exact h
  · rename_i w _
    extract_lets s0 key pz s1 others s2' s2
    have h0 : Canonical s0 := aliasRead_canonical _ (Canonical.of_eq (mergeLine_canonical line (some w.vdid) h) rfl rfl)
    have h2 : Canonical s2 := by
      dsimp only [s2]
      by_cases e : others = true
      · rw [if_pos e]; exact h0
      · rw [if_neg e]; exact h0
    exact ⟨wBytes_wf _ _ _ _ h2.1, h2.2⟩

theorem dropLine_canonical {s : State} (c : Fin 128) (line : Nat) (h : Canonical s) : Canonical (dropLine s c line) := by
  unfold dropLine
  refine giveUp_canonical _ _ (Canonical.updCl _ _ ?_)
  split
  · split <;> exact h
  · exact h

theorem evict_canonical {s : State} (c : Fin 128) (x : Held) (h : Canonical s) : Canonical (evict s c x) := by
  unfold evict
  split
  · exact mergeLine_canonical _ _ h
  · split
    · exact flushHome_canonical _ _ h
    · exact dropLine_canonical _ _ h

theorem makeRoom_canonical {s : State} (c : Fin 128) (v : BitVec 6) (line : Nat) (h : Canonical s) :
    Canonical (makeRoom s c v line).1 := by
  unfold makeRoom
  split
  · exact h
  · split
    · exact evict_canonical _ _ h
    · exact h

theorem fillLine_canonical {s : State} (c : Fin 128) (v : BitVec 6) (line : Nat) (st : LineSt) (p : Ins) (h : Canonical s) :
    Canonical (fillLine s c v line st p).1 := by
  unfold fillLine
  dsimp only
  split
  · exact Canonical.updCl _ _ (makeRoom_canonical c v line h)
  · exact makeRoom_canonical c v line h

theorem dieDrop_canonical {s : State} (g line : Nat) (but : Option (Fin 128)) (h : Canonical s) :
    Canonical (dieDrop s g line but) :=
  Canonical.of_eq h (by delta dieDrop; rfl) (by delta dieDrop; rfl)

theorem cohLoad_canonical {s : State} (c : Fin 128) (v : BitVec 6) (line : Nat) (w : Way) (h : Canonical s) :
    Canonical (cohLoad s c v line w) := by
  unfold cohLoad
  split
  · exact h
  · extract_lets g t0 t s0 src s1 s2 st r
    have h0 : Canonical s0 := chargeFill_canonical c v w.work line h
    have h1 : Canonical s1 := ⟨h0.1, h0.2⟩
    have h2 : Canonical s2 := by
      dsimp only [s2]
      split
      · exact dieDrop_canonical _ _ _ h1
      · exact h1
    have h3 : Canonical r.1 := fillLine_canonical _ _ _ _ _ h2
    clear_value s2 r
    split
    · exact giveUp_canonical _ _ h2
    · split
      · exact h3
      · exact giveUp_canonical _ _ h3

theorem cohStore_canonical {s : State} (c : Fin 128) (v : BitVec 6) (line : Nat) (w : Way) (h : Canonical s) :
    Canonical (cohStore s c v line w) := by
  have h0 := aliasRead_canonical (line * 128) h
  unfold cohStore
  generalize aliasRead s (line * 128) = u at h0 ⊢
  dsimp only
  split
  · exact Canonical.of_eq (noteDirty_canonical line h0) rfl rfl
  · split
    · exact h0
    · have h1 := chargeFill_canonical c v w.work line (noteDirty_canonical line h0)
      split
      · exact fillLine_canonical _ _ _ _ _ h1
      · exact fillLine_canonical _ _ _ _ _ h1

/-! ### Requests that waited -/

theorem performLine_canonical {s : State} (cl : Option (Fin 128)) (v : BitVec 6) (line : Nat) (write : Bool) (work : Work)
    (h : Canonical s) : Canonical (performLine s cl v line write work) := by
  unfold performLine
  cases cl with
  | none => exact h
  | some c =>
    have h1 := mergeLine_canonical line (some v) (flushHome_canonical c line h)
    dsimp only
    split
    · exact h
    · split
      · exact cohStore_canonical _ _ _ _ h1
      · split
        · exact h1
        · exact cohLoad_canonical _ _ _ _ h1

theorem serveWaiting_canonical (g : Fin 5) (line n : Nat) : ∀ s : State, Canonical s → Canonical (serveWaiting g line n s) := by
  induction n with
  | zero => intro s h; exact h
  | succ n ih =>
    intro s h
    simp only [serveWaiting]
    split
    · exact h
    · split
      · exact h
      · exact ih _ (performLine_canonical _ _ _ _ _ h)

theorem finishPersist_canonical {s : State} (p : Persist) (h : Canonical s) : Canonical (finishPersist s p) := by
  unfold finishPersist
  split
  · exact h
  · exact serveWaiting_canonical _ _ _ _ (performLine_canonical p.cl p.vdid p.line p.write p.work h)

theorem completeLine_canonical {s : State} (line : Nat) (h : Canonical s) : Canonical (completeLine s line) := by
  unfold completeLine
  split
  · exact finishPersist_canonical _ h
  · exact h

theorem flushW_canonical {s : State} (c : Fin 128) (line : Nat) (h : Canonical s) : Canonical (flushW s c line) := by
  unfold flushW
  split
  · exact flushHome_canonical _ _ (completeLine_canonical _ h)
  · exact h

/-- A cluster without a W line for the line has nothing to write home. -/
theorem flushW_none {s : State} {c : Fin 128} {line : Nat} (h : findWLine (getCl s c) line = none) : flushW s c line = s := by
  simp [flushW, h]

/-! ### Updates -/

theorem updateAtHome_canonical {s : State} (c : Fin 128) (v : BitVec 6) (pa : Nat) (t : UTag) (x : Word) (w : Way)
    (h : Canonical s) : Canonical (updateAtHome s c v pa t x w) :=
  memPut_canonical _ _ _ (aliasRead_canonical _ (gather_canonical _ (mergeLine_canonical _ _ (Canonical.mapPart _ h))))

theorem grantRec_canonical {s : State} (c : Fin 128) (line : Nat) (t : UTag) (v : BitVec 6) (h : Canonical s) :
    Canonical (grantRec s c line t v) := by
  unfold grantRec
  split
  · split
    · exact h
    · exact Canonical.of_eq (mergeWith_canonical _ false (some v) h) rfl rfl
  · exact h

theorem arriveGrant_canonical {s : State} (c : Fin 128) (line : Nat) (t : UTag) (v : BitVec 6) (h : Canonical s) :
    Canonical (arriveGrant s c line t v) := by
  unfold arriveGrant
  extract_lets room s1 x l first owner held p x1
  have h1 : Canonical s1 := by
    dsimp only [s1, room]
    split
    · exact h
    · exact makeRoom_canonical _ _ _ h
  clear_value room s1 x l first owner held p x1
  split
  · exact foldl_canonical _ (fun _ y h => updateAtHome_canonical _ _ _ _ _ _ h) _ _ h1
  · exact h1

theorem settleTags_canonical (c : Fin 128) (line n : Nat) : ∀ s : State, Canonical s → Canonical (settleTags c line n s) := by
  induction n with
  | zero => intro s h; exact h
  | succ n ih =>
    intro s h
    simp only [settleTags]
    split
    · exact h
    · exact ih _ (arriveGrant_canonical _ _ _ _ (grantRec_canonical _ _ _ _ h))

theorem settleU_canonical {s : State} (c : Fin 128) (line : Nat) (h : Canonical s) : Canonical (settleU s c line) := by
  unfold settleU
  dsimp only
  split
  · exact h
  · exact Canonical.of_eq (settleTags_canonical c line _ _ (completeLine_canonical line h)) rfl rfl

theorem flushAllW_canonical {s : State} (c : Fin 128) (h : Canonical s) : Canonical (flushAllW s c) := by
  unfold flushAllW
  exact foldl_canonical _ (fun _ l h => flushW_canonical c l h) _ _
    (foldl_canonical _ (fun _ l h => settleU_canonical c l h) _ _ h)

theorem lineLoad_canonical {s : State} (c : Fin 128) (v : BitVec 6) (pa n : Nat) (w : Way) (h : Canonical s) :
    Canonical (lineLoad s c v pa n w) := by
  have h1 := settleU_canonical c (lineOf pa) h
  unfold lineLoad
  dsimp only
  split
  · split
    · exact h1
    · exact cohLoad_canonical _ _ _ _ (flushW_canonical _ _ h1)
  · split
    · exact h1
    · exact cohLoad_canonical _ _ _ _ (mergeLine_canonical _ _ h1)

theorem walkLoads_canonical {s : State} (c : Fin 128) (v : BitVec 6) (w : Way) (h : Canonical s) :
    Canonical (walkLoads s c v w) := by
  refine foldl_canonical _ (fun u pa h => ?_) _ s h
  split
  · exact Canonical.mapPart _ h
  · exact lineLoad_canonical _ _ _ _ _ h

theorem loadPrep_canonical {s : State} (c : Fin 128) (v : BitVec 6) (pa n : Nat) (w : Way) (h : Canonical s) :
    Canonical (loadPrep s c v pa n w) := by
  have h1 := walkLoads_canonical c v w h
  unfold loadPrep
  refine aliasRead_canonical _ ?_
  split
  · exact Canonical.mapPart _ h1
  · exact lineLoad_canonical _ _ _ _ _ h1

theorem wAllocate_canonical {s : State} (c : Fin 128) (v : BitVec 6) (pa n x : Nat) (w : Way) (h : Canonical s) :
    Canonical (wAllocate s c v pa n x w) := by
  have h1 := makeRoom_canonical c v (lineOf pa) h
  unfold wAllocate
  dsimp only
  split
  · exact Canonical.updCl _ _ h1
  · exact memPut_canonical _ _ _ (cohStore_canonical _ _ _ _ (mergeLine_canonical _ _ h1))

theorem genStore_canonical {s : State} (c : Fin 128) (v : BitVec 6) (pa n x : Nat) (w : Way) (h : Canonical s) :
    Canonical (genStore s c v pa n x w) := by
  have h0 := walkLoads_canonical c v w h
  have h1 := settleU_canonical c (lineOf pa) h0
  unfold genStore
  dsimp only
  split
  · exact memPut_canonical _ _ _ (aliasRead_canonical _ (Canonical.mapPart _ h0))
  · split
    · exact Canonical.updCl _ _ h1
    · split
      · refine wAllocate_canonical _ _ _ _ _ _ ?_
        split
        · exact mergeLine_canonical _ _ h1
        · exact h1
      · exact memPut_canonical _ _ _ (cohStore_canonical _ _ _ _ (mergeLine_canonical _ _ h1))

theorem atomicPrep_canonical {s : State} (c : Fin 128) (v : BitVec 6) (pa : Nat) (w : Way) (h : Canonical s) :
    Canonical (atomicPrep s c v pa w) := by
  have h0 := walkLoads_canonical c v w h
  unfold atomicPrep
  refine aliasRead_canonical _ ?_
  split
  · exact Canonical.mapPart _ h0
  · exact cohStore_canonical _ _ _ _ (mergeLine_canonical _ _ (flushW_canonical _ _ (settleU_canonical _ _ h0)))

theorem requestU_canonical {s : State} (c : Fin 128) (v : BitVec 6) (pa : Nat) (t : UTag) (x : Word) (w : Way)
    (h : Canonical s) : Canonical (requestU s c v pa t x w) := by
  have h1 := flushW_canonical c (lineOf pa) h
  unfold requestU
  extract_lets line s1 s2 y waits room put out
  have h2 : Canonical s2 := by
    dsimp only [s2]
    split
    · exact dropLine_canonical _ _ h1
    · exact h1
  have h3 : Canonical room.1 := by
    dsimp only [room]
    split
    · exact h2
    · exact makeRoom_canonical _ _ _ h2
  have h4 : Canonical put := Canonical.updCl _ _ h3
  clear_value s1 s2 y waits room put out
  split_ifs
  · exact updateAtHome_canonical _ _ _ _ _ _ h3
  · exact h4
  · exact h4
  · exact arriveGrant_canonical _ _ _ _ (grantRec_canonical _ _ _ _ h4)

theorem applyU_canonical {s : State} (c : Fin 128) (v : BitVec 6) (pa : Nat) (t : UTag) (x : Word) (w : Way)
    (h : Canonical s) : Canonical (applyU s c v pa t x w) := by
  have h0 := walkLoads_canonical c v w h
  unfold applyU
  extract_lets line s0 held mine s1
  have h1 : Canonical s1 := by
    dsimp only [s1]
    split
    · exact settleU_canonical _ _ h0
    · exact h0
  clear_value s0 held s1
  split
  · exact Canonical.updCl _ _ h1
  · exact requestU_canonical _ _ _ _ _ _ h1

theorem setPseenAt_canonical {s : State} (c : Fin 128) (v : BitVec 6) (a : Nat) (h : Canonical s) :
    Canonical (setPseenAt s c v a) :=
  memPut_canonical _ _ _ (aliasRead_canonical _ (gather_canonical _ (mergeLine_canonical _ _
    (flushW_canonical _ _ (settleU_canonical _ _ (completeLine_canonical _ h))))))

theorem walkedFor_canonical {s : State} (c : Fin 128) (v : BitVec 6) (w : Work) (f : XFault) (h : Canonical s) :
    Canonical (walkedFor s c v w f) := walkLoads_canonical _ _ _ h

/-! ## Records, faults, the supervisor -/

theorem putHome_canonical {s : State} (c : Fin 128) (v : BitVec 6) (x : Xl) (n val : Nat) (w : Work) (h : Canonical s) :
    Canonical (putHome s c v x n val w) := by
  have h0 := walkLoads_canonical c v (partWay s x w) h
  unfold putHome
  extract_lets line s0 s1 s2
  have h1 : Canonical s1 := by
    dsimp only [s1]
    split
    · exact h0
    · exact gather_canonical _ (mergeLine_canonical _ _ (flushW_canonical _ _ (settleU_canonical _ _ (completeLine_canonical _ h0))))
  have h2 : Canonical s2 := memPut_canonical _ _ _ (aliasRead_canonical _ (Canonical.mapPart _ h1))
  exact foldl_canonical (fun t i => clearPoison t (x.pa + 32 * i)) (fun _ _ h => h) _ _ h2

theorem putEntry_canonical {s t : State} (d : Vd) (va : Word) (v : Nat) (w : Work) (h : Canonical s)
    (e : putEntry s d va v w = .done t) : Canonical t := by
  unfold putEntry at e
  split at e
  · cases e; exact putHome_canonical _ _ _ _ _ _ h
  · cases e
  · cases e

/-- What sending a record can do: it is dropped and counted, it waits behind others, or it is written. -/
theorem sendRecord_canonical {s : State} (d : Vd) (stamp : Bool) (b : Nat) (h : Canonical s) :
    Canonical (sendRecord s d stamp b).1 := by
  unfold sendRecord
  dsimp only
  split
  · exact h
  · split
    · exact h
    · split
      · exact h
      · exact h
      · rename_i e
        exact Canonical.of_eq (putEntry_canonical _ _ _ _ h e) rfl rfl

theorem writeRecord_canonical {s : State} (v : BitVec 6) (b : Nat) (h : Canonical s) : Canonical (writeRecord s v b).1 := by
  unfold writeRecord
  split
  · exact h
  · exact sendRecord_canonical _ _ _ h

theorem drainRecs_canonical {s : State} (h : Canonical s) : Canonical (drainRecs s) := by
  refine foldl_canonical _ (fun t r h => ?_) _ _ (Canonical.of_eq h rfl rfl)
  split
  · exact h
  · exact sendRecord_canonical _ _ _ h

theorem writeStamp_canonical {s : State} (v : BitVec 6) (b : Nat) (h : Canonical s) : Canonical (writeStamp s v b) := by
  unfold writeStamp
  split
  · exact h
  · exact sendRecord_canonical _ _ _ h

theorem emptyTile_canonical {s : State} (c : Core) (t : TSlot) (x : BitVec 16) (h : Canonical s) :
    Canonical (emptyTile s c t x).1 := by
  unfold emptyTile
  refine Canonical.updCl _ _ ?_
  split
  · exact writeStamp_canonical _ _ h
  · exact h

theorem emptyTiles_canonical {s : State} (c : Core) (h : Canonical s) : Canonical (emptyTiles s c).1 := by
  unfold emptyTiles
  generalize List.finRange 64 = l
  suffices ∀ p : State × Core, Canonical p.1 →
      Canonical (l.foldl (fun p t => if p.2.tiles[t].st == .empty then p else emptyTile p.1 p.2 t 4) p).1 from this (s, c) h
  induction l with
  | nil => intro p h; exact h
  | cons a l ih =>
    intro p h
    refine ih _ ?_
    dsimp only
    split
    · exact h
    · exact emptyTile_canonical _ _ _ h

theorem State.putCore_canonical {s : State} (c : Core) (h : Canonical s) : Canonical (s.putCore c) := by
  unfold State.putCore
  repeat' split
  all_goals exact h

theorem killCore_canonical {s : State} (i : Fin 1024) (h : Canonical s) : Canonical (killCore s i) := by
  unfold killCore
  dsimp only
  exact Canonical.updCl _ _ (State.putCore_canonical _ (emptyTiles_canonical _ h))

theorem stampSaved_canonical {s : State} (c : Core) (h : Canonical s) : Canonical (stampSaved s c) := by
  refine foldl_canonical _ (fun t i h => ?_) _ _ h
  split
  · exact writeStamp_canonical _ _ h
  · exact h

theorem killGroup_canonical {s : State} (g : BitVec 32) (h : Canonical s) : Canonical (killGroup s g) := by
  have h1 := foldl_canonical killCore (fun _ i h => killCore_canonical i h) (groupCores s g) s h
  unfold killGroup
  generalize (groupCores s g).foldl killCore s = u at h1 ⊢
  dsimp only
  split
  · exact Canonical.of_eq (foldl_canonical stampSaved (fun _ c h => stampSaved_canonical c h) _ u h1) rfl rfl
  · exact h1

theorem takeKill_canonical {s : State} (f : FaultInfo) (h : Canonical s) : Canonical (takeKill s f) :=
  killGroup_canonical _ (writeRecord_canonical _ _ h)

theorem enterSupervisor_canonical {s : State} (k : BitVec 8) (ret record : Word) (v : Bool) (w : Wait) (page : Option Word)
    (stop : Option Nat) (h : Canonical s) : Canonical (enterSupervisor s k ret record v w page stop) := by
  have h1 : Canonical (flushAllW (holdOthers s) s.cl) := flushAllW_canonical s.cl (Canonical.of_eq h rfl rfl)
  unfold enterSupervisor
  exact Canonical.updCore _ h1

/-- Taking a fault keeps both memories canonical, whichever way it goes. -/
theorem takeFaultRet_canonical {s : State} (f : FaultInfo) (ret : Word) (w : Wait) (stop : Option Nat) (h : Canonical s) :
    Canonical (takeFaultRet s f ret w stop) := by
  unfold takeFaultRet
  split
  · exact takeKill_canonical _ h
  · split
    · exact enterSupervisor_canonical _ _ _ _ _ _ _ (writeRecord_canonical _ _ h)
    · exact takeKill_canonical _ h

theorem takeFault_canonical {s : State} (f : FaultInfo) (h : Canonical s) : Canonical (takeFault s f) := by
  unfold takeFault takeApFault
  split
  · exact h
  · exact takeFaultRet_canonical _ _ _ _ h

theorem freshPage_canonical {s : State} (page : Option Word) (h : Canonical s) : Canonical (freshPage s page) := by
  unfold freshPage
  cases page <;> exact h

theorem returnFromSupervisor_canonical {s : State} (e : Entry) (h : Canonical s) : Canonical (returnFromSupervisor s e) := by
  have h1 := freshPage_canonical e.page (flushAllW_canonical s.cl h)
  unfold returnFromSupervisor
  extract_lets s1 others s2
  have h2 : Canonical s2 := Canonical.updCore _ h1
  clear_value s1 others s2
  split_ifs
  · exact h2
  · exact h2

/-- Which way a fault goes (R341, R342, R346, R348): in the S view, and elsewhere by its kind and whether the core has yielded. -/
theorem takeFaultRet_cases (s : State) (f : FaultInfo) (ret : Word) (w : Wait) (stop : Option Nat) :
    (s.core.view = .s ∧ takeFaultRet s f ret w stop = takeKill s { f with kind := kSupervisor }) ∨
    (s.core.view ≠ .s ∧ repairKind f.kind = true ∧ s.core.run ≠ .yielded ∧ takeFaultRet s f ret w stop =
      enterSupervisor (coreRecord s f true false).1 f.kind ret (coreRecord s f true false).2 false w f.addr stop) ∨
    (s.core.view ≠ .s ∧ (repairKind f.kind = false ∨ s.core.run = .yielded) ∧ takeFaultRet s f ret w stop = takeKill s f) := by
  unfold takeFaultRet
  by_cases h : s.core.view = .s
  · left; simp [h]
  · right
    by_cases hk : repairKind f.kind = true ∧ s.core.run ≠ .yielded
    · left; simp [h, hk.1, hk.2]
    · right
      have : ¬ (repairKind f.kind && s.core.run != .yielded) = true := by simpa using hk
      refine ⟨h, ?_, by simp [h, this]⟩
      by_cases hr : repairKind f.kind = true
      · right; by_contra hy; exact hk ⟨hr, hy⟩
      · left; simpa using hr

/-- A fault of the AP's instruction waits for what the core has queued before an entry, and is taken at once otherwise (R347). -/
theorem takeApFault_cases (s : State) (f : FaultInfo) (ret : Word) (w : Wait) :
    (repairKind f.kind = true ∧ entryWaits s = true ∧ takeApFault s f ret w = s.waitAs .behind) ∨
    ((repairKind f.kind = false ∨ entryWaits s = false) ∧ takeApFault s f ret w = takeFaultRet s f ret w) := by
  unfold takeApFault
  cases repairKind f.kind <;> cases entryWaits s <;> simp

end Sys2Proof.Machine
end

