-- ==== Sys2Proof/Laws/Ep.lean ====
section
/-! SUPPORT. What the EP's shared frame and issue do: every class-3 instruction goes through them. -/

namespace Sys2Proof.Machine

open Sys2Proof

@[simp] theorem capture_vl (s : State) (a b : Word) (n : Nat) : (capture s a b n).vl = s.core.vl := rfl

theorem deadReg_none {c : Core} {l : List VReg} (h : ∀ r ∈ l, c.isPoisoned r = false) : deadReg c l = none :=
  List.find?_eq_none.mpr (fun r hr => by simp [h r hr])

/-- Where nothing keeps the instruction, the frame hands on the core after the pops and the sources as read. -/
theorem epFrame_ready {s : State} {srcs : List VB} {regs : List VReg} {ws : List Nat} {masked : Bool} {c : Core} {l : List SVal}
    (cap : Capture) (k : Core → List SVal → EpRes) (hv : cap.vl = s.core.vl) (h : EpReady s srcs regs ws masked c l) :
    epFrame s.core cap srcs regs ws masked k = k c l := by
  obtain ⟨-, hr, hw, hm, hp, hq⟩ := h
  have hvl : vlOk cap.vl ws masked = true := by
    simp only [vlOk, hv, Bool.and_eq_true, List.all_eq_true, decide_eq_true_eq, Bool.or_eq_true, Bool.not_eq_true']
    refine ⟨fun w h => hw w h, ?_⟩
    cases masked
    · exact Or.inl rfl
    · exact Or.inr (hm rfl)
  simp [epFrame, deadReg_none hr, hvl, hp, hq]

/-- Everything the frame can answer: a fault by the first check that fails, a wait, or what the continuation answers. -/
theorem epFrame_cases (c : Core) (cap : Capture) (srcs : List VB) (regs : List VReg) (ws : List Nat) (masked : Bool)
    (k : Core → List SVal → EpRes) :
    (∃ r, deadReg c (srcRegs srcs ++ regs) = some r ∧ epFrame c cap srcs regs ws masked k = .fault kDeadRegister (regNum r) 0) ∨
    (deadReg c (srcRegs srcs ++ regs) = none ∧
      ((vlOk cap.vl ws masked = false ∧ epFrame c cap srcs regs ws masked k = .fault kIllegalOperand none 0) ∨
      (vlOk cap.vl ws masked = true ∧
        ((popAll c srcs = none ∧ ((∃ j, streamFaulted c srcs = some j ∧
            epFrame c cap srcs regs ws masked k = .fault kStream none (BitVec.ofNat 16 (32 + j.val))) ∨
          (streamFaulted c srcs = none ∧ epFrame c cap srcs regs ws masked k = .blocked))) ∨
        (∃ p, popAll c srcs = some p ∧ ((popsPoison p.2 = true ∧ epFrame c cap srcs regs ws masked k = .fault kData none 0) ∨
          (popsPoison p.2 = false ∧ epFrame c cap srcs regs ws masked k = k p.1 p.2))))))) := by
  unfold epFrame
  cases hd : deadReg c (srcRegs srcs ++ regs) with
  | some r => exact .inl ⟨r, rfl, rfl⟩
  | none =>
    refine .inr ⟨rfl, ?_⟩
    cases hv : vlOk cap.vl ws masked with
    | false => exact .inl ⟨rfl, rfl⟩
    | true =>
      refine .inr ⟨rfl, ?_⟩
      cases hp : popAll c srcs with
      | none =>
        refine .inl ⟨rfl, ?_⟩
        cases hs : streamFaulted c srcs with
        | some j => exact .inl ⟨j, rfl, rfl⟩
        | none => exact .inr ⟨rfl, rfl⟩
      | some p =>
        refine .inr ⟨p, rfl, ?_⟩
        cases hq : popsPoison p.2 with
        | true => exact .inl ⟨rfl, by simp [hq]⟩
        | false => exact .inr ⟨rfl, by simp [hq]⟩

theorem viqCount_nil {c : Core} (h : c.viq = []) : viqCount c = 0 := by simp [viqCount, h]

/-- Issue to an idle EP of an instruction that completes there. -/
theorem issueEp_done {s : State} (i : Instr) {eff : Capture → Core → EpRes} (n : Nat) {c : Core} (h : EpIdle s)
    (he : eff (capture s 0 0 n) s.core = .done c) (hp : c.pc = s.core.pc) (hs : c.seq = s.core.seq) :
    ∃ t, issueEp i eff n s = .next t ∧ EpDone s t c n := by
  obtain ⟨hv, hq, hl⟩ := h
  refine ⟨((s.withCore ({ c with seq := c.seq + 1 }.laneUsed)).advance n), ?_, ?_⟩
  · have e : eff (capture s (0#64) (0#64) n) s.core = .done c := he
    simp [issueEp, hv, viqCount_nil hq, hq, hl, e]
  · simp only [EpDone, State.withCore, State.advance, State.goto, State.updCore, Core.laneUsed, hp, hs]

/-- Issue to an idle EP of an instruction that faults there. -/
theorem issueEp_fault {s : State} (i : Instr) {eff : Capture → Core → EpRes} (n : Nat) {k : BitVec 8} {el : Option (BitVec 32)}
    {sub : BitVec 16} (h : EpIdle s) (he : eff (capture s 0 0 n) s.core = .fault k el sub) :
    issueEp i eff n s = .next (epFault (s.advance n) (capture s 0 0 n) k el sub) := by
  obtain ⟨hv, hq, hl⟩ := h
  have e : eff (capture s (0#64) (0#64) n) s.core = .fault k el sub := he
  simp [issueEp, hv, viqCount_nil hq, hq, hl, e]

/-- Whatever the EP's effect answers, issue answers a next state. -/
theorem issueEp_next (i : Instr) (eff : Capture → Core → EpRes) (n : Nat) (s : State) : ∃ t, issueEp i eff n s = .next t := by
  unfold issueEp
  dsimp only
  repeat' split
  all_goals exact ⟨_, rfl⟩

end Sys2Proof.Machine
end

