-- ==== Sys2Proof/Tests/Slice0.lean ====
section
/-! SUPPORT. The model's own tests: ill-formed terms that `Instr.wf` refuses, words written out from the opcode map and the
field tables (R133 to R144) for every instruction with an encoding, the spec's worked numbers, a few single steps, and for
every statement of Obligations states and operands that meet its hypotheses. -/

open Sys2Proof Sys2Proof.Machine

namespace Sys2Proof.Tests

-- One theorem is checked at a time: the memory limit of a run leaves no room for a thread for each.
set_option Elab.async false

/-! ## Ill-formed terms: one for each check of `Instr.wf`, each refused (R355 to R367) -/

def fx (t : ElemTy) : VF := { ext := true, et := t, rm := .dyn, sat := false, msk := 0, dt := false }
def mx (t : ElemTy) : VM := { et := t, msk := 0, dt := false, oe := false, na := false }

theorem test_wf_scalar :
    [Instr.sel 1 2 3 (.reg false 4), .sel 1 2 3 (.imm6 0), .sel 1 2 3 (.lit false 0), .sysrd 1 0x009, .syswr 1 0x013, .sysrd 1 0x016,
     .sysrd 1 0x050, .syswr 1 0x300].all (fun i => !i.wf) = true := by
  decide +kernel

theorem test_wf_vector_fields :
    [Instr.vadd { fx .f32 with dt := true } 0 (.v 0) (.src (.v 0)), .vadd { fx .e8 with ext := false } 0 (.v 0) (.src (.v 0)),
     .vadd { fx .f32 with ext := false, rm := .rne } 0 (.v 0) (.src (.v 0)),
     .vadd { fx .f32 with ext := false, sat := true } 0 (.v 0) (.src (.v 0)),
     .vadd { fx .f32 with ext := false, msk := 1 } 0 (.v 0) (.src (.v 0)),
     .vadd { fx .f32 with ext := false, dt := true } 0 (.v 0) (.src (.v 0)),
     .vadd (fx .f32) 0 (.q 6) (.src (.v 0)), .vadd (fx .f32) 0 (.v 0) (.src (.q 6)), .vadd (fx .i4) 0 (.v 0) (.lit 0),
     .vand (fx .f32) 0 (.v 0) (.lit 0), .vsqrt (fx .i32) 0 (.v 0), .vabs (fx .e8) 0 (.v 0), .vnot (fx .t8) 0 (.v 0),
     .vclass (fx .i8) 0 (.v 0) 1, .vclass { fx .f32 with ext := false } 0 (.v 0) 1].all (fun i => !i.wf) = true := by
  decide +kernel

theorem test_wf_fused_and_compares :
    [Instr.vfma (fx .f32) 0 (.v 0) (.src (.v 0)) (.q 6) 0, .vfma { fx .f32 with ext := false } 0 (.v 0) (.src (.v 0)) (.v 0) 0,
     .vfms (fx .f32) 0 (.v 0) (.src (.v 0)) (.v 0) 0x4000, .vfms (fx .f32) 0 (.v 0) (.src (.v 0)) (.v 0) 0x40,
     .vfnma (fx .f32) 0 (.k 0) (.src (.v 0)) (.v 0) 0x20, .vfnma (fx .i32) 0 (.v 0) (.src (.v 0)) (.v 0) 0x20,
     .vfnma (fx .f32) 0 (.v 0) (.lit 0) (.v 0) 0x2000, .vcmp (fx .f32) 0 (.v 0) (.lit 0) 7, .vcmp (fx .f32) 0 (.v 0) (.lit 0) 6,
     .vcmp (fx .i32) 0 (.v 0) (.lit 0) 8, .vcmp { fx .f32 with ext := false } 0 (.v 0) (.lit 0) 0].all (fun i => !i.wf) = true := by
  decide +kernel

theorem test_wf_conversions :
    [Instr.vcvt (fx .e8) 0 (.v 0) 0 .f32 false, .vcvt (fx .f32) 0 (.v 0) 0 .e8 false, .vcvt (fx .f32) 0 (.v 0) 0 .i8 true,
     .vcvt (fx .f32) 0 (.v 0) 1 .t8 false, .vscale (fx .f32) 0 (.v 0) (.src (.k 0)) true, .vscale (fx .i32) 0 (.v 0) (.src (.v 0)) false,
     .vpack (fx .f32) 0 (.v 0) 0, .vpack { fx .t8 with sat := true } 0 (.v 0) 0,
     .vredsum { fx .f32 with ext := false } (.v 0) (.v 0) true].all (fun i => !i.wf) = true := by
  decide +kernel

theorem test_wf_permutations :
    [Instr.vpermb { fx .i8 with msk := 1 } 0 (.v 0) 0 0 0, .vslideup (fx .i8) 0 (.v 0) (.src (.v 0)), .vslidedown (fx .i8) 0 (.v 0) (.src (.q 0)),
     .vbcast (fx .i8) 0 (.v 0) (.src (.q 6)), .vcompress { fx .i8 with msk := 1 } 0 (.v 0) 0, .vexpand { fx .i8 with msk := 1 } 0 (.v 0) 0,
     .vmv (fx .i8) (.v 0) (.v 0) 1, .vmv { fx .i8 with msk := 1 } (.k 0) (.v 0) 0, .vmv { fx .i8 with ext := false } (.k 0) (.v 0) 1,
     .viota (fx .f32) 0 0, .viotaIdx (fx .f32) 0, .viotaIdx { fx .i32 with ext := false } 0, .vmpop (fx .f32) 0 0, .mnot (fx .f32) 0 0,
     .mand (fx .f32) 0 0 0, .mset (fx .f32) 0 (.lit 0), .mset (fx .i8) 0 (.src (.v 0)), .vtoq (fx .f32) 0].all (fun i => !i.wf) = true := by
  decide +kernel

theorem test_wf_defer :
    [Instr.vdefer (fx .i8) 0 0 0 0 3, .vdefer (fx .i32) 0 1 0 0 0, .vdefer (fx .i32) 0 0 1 0 1, .vdefer (fx .i32) 0 0 0 1 2,
     .vdrain (fx .i8) 0 0 0 0 3 false 0 1, .vdrain { fx .i32 with msk := 1 } 0 0 0 0 3 false 0 1, .vdrain (fx .i32) 0 1 0 0 0 false 0 1,
     .vdrain (fx .i32) 0 0 1 0 1 false 0 1, .vdrain (fx .i32) 0 0 0 1 2 false 0 1, .vdrain (fx .i32) 0 0 0 0 0 false 0 0,
     .vdrain (fx .i32) 0 0 0 0 0 false 0 1025, .vhash (fx .i64) 0 (.v 0) (.lit 0)].all (fun i => !i.wf) = true := by
  decide +kernel

theorem test_wf_memory :
    [Instr.vld { mx .i8 with dt := true } (.v 0) 0 (.lit 0 0), .vldff (mx .i4) (.v 0) 0 (.lit 0 0), .vlds (mx .t6) (.v 0) 0 (.lit 0 0),
     .vstx (mx .n4) 0 0 0, .vldseg (mx .i8) 0 0 (.lit 0) 1, .vldseg (mx .i8) 0 0 (.lit 0) 9, .vldseg (mx .i8) 31 0 (.lit 0) 2,
     .vldseg { mx .i8 with oe := true } 0 0 (.lit 0) 2, .vstseg (mx .i4) 0 0 (.lit 0) 2, .vldl { mx .i8 with oe := true } (.v 0) 0 (.lit 0 0) none,
     .vstl { mx .i8 with na := true } 0 0 (.lit 0 0) none, .vrred (mx .i8) .rne false .dev 0 0 (.lit 0 0) none,
     .vrred (mx .i32) .rtz false .dev 0 0 (.lit 0 0) none, .vrred (mx .i32) .rne false .dev 0 0 (.lit 0 0) (some 0),
     .vrred { mx .f32 with na := true } .rne false .dev 0 0 (.lit 0 0) none].all (fun i => !i.wf) = true := by
  decide +kernel

theorem test_wf_engines :
    [Instr.mdetach 0x20, .mpack 0 0 .n8 2 true false 0, .mpack 0 0 .f32 1 true false 0, .mpack 0 0 .f32 26 true false 0,
     .mpack 0 0 .f32 2 true false 1, .mpack 0 0 .f32 2 false false 0, .mpack 0 0 .f32 2 false false 65, .mmul 0 0 (.tile 0) 0 1 1 0,
     .mmul 0 0 (.tile 0) 1 26 1 0, .mmul 0 0 (.tile 0) 1 1 0 0, .mmul 0 0 (.tile 0) 1 1 65 0, .cpy .dev 0 0 62 0 false 0,
     .cpyseg .dev 0 0 63 0 2 0 false 0 false 0, .cpyseg .dev 0 0 0 0 1 0 false 0 false 0, .cpyseg .dev 0 0 0 0 9 0 false 0 false 0,
     .cpyx .dev 0 0 63 0 0 false 0, .strm .dev 0 0 63 0].all (fun i => !i.wf) = true := by
  decide +kernel

theorem test_wf_updates_and_advice :
    [Instr.ustore .addI32 false .dev 0 0 (.lit 0 0), .vustore (mx .i64) .addI32 true .dev 0 0 (.lit 0 0) none,
     .vustore { mx .i32 with na := true } .addI32 true .dev 0 0 (.lit 0 0) none, .vustore (mx .i32) .addI32 false .dev 0 0 (.lit 0 0) none,
     .vustore (mx .i32) .addI32 true .dev 0 0 (.reg 1 0) (some 0), .vustore (mx .i32) .addI32 true .dev 0 0 (.lit 0 0) (some 0),
     .vlockacq .dev 0 true 0 0 0 0, .vlockrel .dev 0 true 0 0 0, .cflush false .core 0 (.lit 0 0), .cflush true .clus 0 (.lit 0 0),
     .aAwait 0xFFFF 1].all (fun i => !i.wf) = true := by
  decide +kernel

/-! ## Words written out from the opcode map R141 and the field tables of R133 to R144 -/

def reads (ws : List IWord) (i : Instr) : Bool :=
  match decodeWords ws with
  | .ok (j, n) => j == i && n == ws.length
  | .error _ => false

def readsAll (l : List (List IWord × Instr)) : Bool := l.all (fun p => reads p.1 p.2)

def readsAdvice (l : List (IWord × Instr)) : Bool := l.all (fun p => decodeAdvice p.1 == some p.2)

def refuses (l : List (List IWord)) : Bool :=
  l.all (fun ws => match decodeWords ws with
    | .ok _ => false
    | .error _ => true)

theorem test_decode_integer_arithmetic : readsAll (
  [([0x01840820], Instr.add 1 2 (.reg false 3)),
   ([0x3F061040], Instr.sub 2 3 (.imm6 62)),
   ([0x00081861, 0x9ABCDEF0, 0x12345678], Instr.mul 3 4 (.lit false 0x123456789ABCDEF0)),
   ([0x200A2082, 0x00000000, 0xFFFFFF00], Instr.mulh 4 5 (.imm32 0 0xFFFFFF00)),
   ([0x000C28A3, 0x00000000, 0x00000000, 0x00000001, 0x80000000], Instr.mulhn 5 6 (.lit true 0x8000000000000001)),
   ([0x040E30C0], Instr.div 6 7 (.reg false 8)),
   ([0x3F1038E0], Instr.divn 7 8 (.imm6 62)),
   ([0x00124101, 0x9ABCDEF0, 0x12345678], Instr.rem 8 9 (.lit false 0x123456789ABCDEF0)),
   ([0x20144922, 0x00000000, 0xFFFFFF00], Instr.remn 9 10 (.imm32 0 0xFFFFFF00)),
   ([0x00165143, 0x00000000, 0x00000000, 0x00000001, 0x80000000], Instr.and 10 11 (.lit true 0x8000000000000001)),
   ([0x06985960], Instr.or 11 12 (.reg false 13)),
   ([0x3F1A6180], Instr.xor 12 13 (.imm6 62)),
   ([0x001C69A1, 0x9ABCDEF0, 0x12345678], Instr.andn 13 14 (.lit false 0x123456789ABCDEF0))]) = true := by decide +kernel

theorem test_decode_integer_logic_and_comparison : readsAll (
  [([0x201E71C2, 0x00000000, 0xFFFFFF00], Instr.orn 14 15 (.imm32 0 0xFFFFFF00)),
   ([0x002079E3, 0x00000000, 0x00000000, 0x00000001, 0x80000000], Instr.shl 15 16 (.lit true 0x8000000000000001)),
   ([0x09228200], Instr.shr 16 17 (.reg false 18)),
   ([0x3F248A20], Instr.sra 17 18 (.imm6 62)),
   ([0x00269241, 0x9ABCDEF0, 0x12345678], Instr.rot 18 19 (.lit false 0x123456789ABCDEF0)),
   ([0x20289A62, 0x00000000, 0xFFFFFF00], Instr.slt 19 20 (.imm32 0 0xFFFFFF00)),
   ([0x002AA283, 0x00000000, 0x00000000, 0x00000001, 0x80000000], Instr.sltn 20 21 (.lit true 0x8000000000000001)),
   ([0x0BACAAA0], Instr.seq 21 22 (.reg false 23)),
   ([0x3F2EB2C0], Instr.min 22 23 (.imm6 62)),
   ([0x0030BAE1, 0x9ABCDEF0, 0x12345678], Instr.max 23 24 (.lit false 0x123456789ABCDEF0)),
   ([0x2032C302, 0x00000000, 0xFFFFFF00], Instr.minn 24 25 (.imm32 0 0xFFFFFF00)),
   ([0x0034CB23, 0x00000000, 0x00000000, 0x00000001, 0x80000000], Instr.maxn 25 26 (.lit true 0x8000000000000001))]) = true := by decide +kernel

theorem test_decode_integer_one_source : readsAll (
  [([0x00424B40], Instr.clz false 9 33),
   ([0x00424B60], Instr.ctz false 9 33),
   ([0x00424B80], Instr.popc false 9 33),
   ([0x017E0BA0], Instr.sxt false 1 63 2),
   ([0x0083FBC2, 0x00000000, 0x00000000], Instr.zxt true 63 1 1),
   ([0x250043E0], Instr.li 8 (.imm6 10)),
   ([0x000A2402, 0x00000000, 0x00000000], Instr.mov true 4 5),
   ([0x030A2422, 0x00070000, 0x00000000], Instr.sel 4 5 7 (.reg true 6)),
   ([0x030A2440], Instr.lea 4 5 (.reg false 6)),
   ([0x40002442, 0x00000000, 0x00000100], Instr.leaPc 4 0x100)]) = true := by decide +kernel

theorem test_decode_scalar_memory : readsAll (
  [([0x61840824], Instr.ld .n16 1 2 (.reg 3)),
   ([0xC0023845, 0x00000008, 0x00000000], Instr.st .b64 7 1 (.lit 8)),
   ([0x81840866, 0x00000000, 0xFFFFFFF8], Instr.ldl .i32 1 2 (.ext 3 0xFFFFFFF8)),
   ([0x40040887, 0x00000000, 0x00000004, 0x00000010, 0x00000000], Instr.stl .b16 1 2 (.extLit 16 4)),
   ([0x018408A6, 0x16001800, 0x00000008], Instr.amo .swap .acq true .sys 1 2 3 8),
   ([0x018408C6, 0x08040800, 0x00000008], Instr.amoCas .rel false .clus 1 2 3 4 8),
   ([0x1F800104], Instr.semtas 63),
   ([0x00802924], Instr.semtry 5 1),
   ([0x01000144], Instr.semset 2),
   ([0x01800164], Instr.semclr 3),
   ([0x0F802984], Instr.cdrd 5 31),
   ([0x0F0C01A4], Instr.cdwr 30 6),
   ([0x038C29C4], Instr.cdadd 5 7 6)]) = true := by decide +kernel

theorem test_decode_control : readsAll (
  [([0x240E002A, 0x00000000, 0x00000006], Instr.bcc .ne 7 (.reg 8) 6),
   ([0xA00E002B, 0x00000000, 0xFFFFFFFF, 0x00000009, 0x00000000], Instr.bcc .gen 7 (.lit 9) 0xFFFFFFFF),
   ([0x200A0048], Instr.jmpReg 5),
   ([0x0000004A, 0x00000000, 0x00000010], Instr.jmpOff 0x10),
   ([0x200BE068], Instr.callReg 60 5),
   ([0x0001E06A, 0x00000000, 0x00000010], Instr.callOff 60 0x10),
   ([0x00780088], Instr.ret 60),
   ([0x200000AA, 0x00000000, 0x00000003], Instr.bq true 3),
   ([0x400000CA, 0x48400000, 0x00000003], Instr.bflag .faulted (.tile 33) 3),
   ([0x200800CA, 0x00000000, 0x00000003], Instr.bflag .done (.cc 4) 3),
   ([0x418408EA, 0x00000000, 0x000000F0], Instr.setvl .w32 1 2 (.reg 3) 0xF0),
   ([0x6004090B, 0x001F0000, 0x000000F0, 0x00000040, 0x00000000], Instr.setvlTeam .w64 1 2 31 (.lit 64) 0xF0)]) = true := by decide +kernel

theorem test_decode_queues_and_system : readsAll (
  [([0x00050128], Instr.cairn 5),
   ([0x04812148], Instr.qpush .q4 (.reg 9)),
   ([0x0001294A, 0x00000000, 0x00000007], Instr.qpush .q5 (.imm32 0 7)),
   ([0x00013949, 0x00000000, 0x80000000], Instr.qpush .q7 (.lit 0x8000000000000000)),
   ([0x004C4968], Instr.qpop 9),
   ([0x00040988], Instr.launch 1 2),
   ([0x1F8001A8], Instr.trap 63),
   ([0x000001C8], Instr.eret),
   ([0x000001E8], Instr.yield),
   ([0x05FE1A08], Instr.sysrd 3 0x2FF),
   ([0x000E1A28], Instr.syswr 3 0x007),
   ([0x00001A48], Instr.tstamp 3),
   ([0x00002268], Instr.rdcycle 4),
   ([0x00040A88], Instr.pgrefInc 1 2),
   ([0x20040A88], Instr.pgrefDec 1 2),
   ([0x40040A88], Instr.pgrefRd 1 2),
   ([0x000402A8], Instr.tlbinvPage 2),
   ([0x200002A8], Instr.tlbinvAll),
   ([0x000402C8], Instr.wait 2),
   ([0x000002E8], Instr.halt),
   ([0x00000308], Instr.nop)]) = true := by decide +kernel

theorem test_decode_vector_two_sources : readsAll (
  [([0x2184082C], Instr.vadd ⟨false, .bf16, .dyn, false, 0, false⟩ 1 (.v 2) (.src (.v 3))),
   ([0x18C8104E, 0x000001CB, 0x00000000], Instr.vsub ⟨true, .t6, .rtz, false, 3, true⟩ 2 (.q 4) (.src (.k 1))),
   ([0x4008186D, 0x00000040, 0x00000000], Instr.vmul ⟨false, .f16, .dyn, false, 0, false⟩ 3 (.v 4) (.lit 0x40)),
   ([0x004E208F, 0x00004577, 0x00000000, 0x00000040, 0x00000000], Instr.vmulh ⟨true, .n64, .rs, true, 7, false⟩ 4 (.q 7) (.lit 0x40)),
   ([0x238C290C], Instr.vdiv ⟨false, .bf16, .dyn, false, 0, false⟩ 5 (.v 6) (.src (.v 7))),
   ([0x1AC831CE, 0x000001CB, 0x00000000], Instr.vmin ⟨true, .t6, .rtz, false, 3, true⟩ 6 (.q 4) (.src (.k 5))),
   ([0x401039ED, 0x00000040, 0x00000000], Instr.vmax ⟨false, .f16, .dyn, false, 0, false⟩ 7 (.v 8) (.lit 0x40)),
   ([0x004E424F, 0x00004577, 0x00000000, 0x00000040, 0x00000000], Instr.vand ⟨true, .n64, .rs, true, 7, false⟩ 8 (.q 7) (.lit 0x40)),
   ([0x85944A6C], Instr.vor ⟨false, .i32, .dyn, false, 0, false⟩ 9 (.v 10) (.src (.v 11))),
   ([0x1CC8528E, 0x0000015B, 0x00000000], Instr.vxor ⟨true, .n32, .rtz, false, 3, true⟩ 10 (.q 4) (.src (.k 9))),
   ([0xA0185ACD, 0x00000040, 0x00000000], Instr.vshl ⟨false, .n32, .dyn, false, 0, false⟩ 11 (.v 12) (.lit 0x40)),
   ([0x004E62EF, 0x00004577, 0x00000000, 0x00000040, 0x00000000], Instr.vshr ⟨true, .n64, .rs, true, 7, false⟩ 12 (.q 7) (.lit 0x40)),
   ([0x879C6B0C], Instr.vsra ⟨false, .i32, .dyn, false, 0, false⟩ 13 (.v 14) (.src (.v 15))),
   ([0x1EC876EE, 0x0000015B, 0x00000000], Instr.vhash ⟨true, .n32, .rtz, false, 3, true⟩ 14 (.q 4) (.src (.k 13))),
   ([0x40207C8D, 0x00000040, 0x00000000], Instr.vperm ⟨false, .f16, .dyn, false, 0, false⟩ 15 (.v 16) (.lit 0x40))]) = true := by decide +kernel

theorem test_decode_vector_fused_and_one_source : readsAll (
  [([0x018408AE, 0x00210381, 0x00000000], Instr.vfma ⟨true, .f32, .rup, false, 1, false⟩ 1 (.v 2) (.src (.v 3)) (.q 1) 0),
   ([0x018408CE, 0x00210381, 0x00000029], Instr.vfms ⟨true, .f32, .rup, false, 1, false⟩ 1 (.v 2) (.src (.v 3)) (.q 1) 41),
   ([0x018408EE, 0x00210381, 0x00002B00], Instr.vfnma ⟨true, .f32, .rup, false, 1, false⟩ 1 (.v 2) (.src (.v 3)) (.q 1) 11008),
   ([0x004A292E, 0x000004A2, 0x00000000], Instr.vsqrt ⟨true, .f16, .rna, false, 2, false⟩ 5 (.q 5)),
   ([0x400E294C], Instr.vrcp ⟨false, .f16, .dyn, false, 0, false⟩ 5 (.v 7)),
   ([0x004A296E, 0x000004A2, 0x00000000], Instr.vrsqrt ⟨true, .f16, .rna, false, 2, false⟩ 5 (.q 5)),
   ([0x4012298C], Instr.vexp2 ⟨false, .f16, .dyn, false, 0, false⟩ 5 (.v 9)),
   ([0x004A29AE, 0x000004A2, 0x00000000], Instr.vlog2 ⟨true, .f16, .rna, false, 2, false⟩ 5 (.q 5)),
   ([0x40162A0C], Instr.vabs ⟨false, .f16, .dyn, false, 0, false⟩ 5 (.v 11)),
   ([0x004A2A2E, 0x000004A2, 0x00000000], Instr.vneg ⟨true, .f16, .rna, false, 2, false⟩ 5 (.q 5)),
   ([0xC01A2AAC], Instr.vnot ⟨false, .i16, .dyn, false, 0, false⟩ 5 (.v 13)),
   ([0x004A2B2E, 0x00000422, 0x00000000], Instr.vclz ⟨true, .i16, .rna, false, 2, false⟩ 5 (.q 5)),
   ([0xC01E2B4C], Instr.vpopc ⟨false, .i16, .dyn, false, 0, false⟩ 5 (.v 15))]) = true := by decide +kernel

theorem test_decode_vector_compare_convert_reduce : readsAll (
  [([0x0206136E, 0x03800081, 0x00000000], Instr.vcmp ⟨true, .f32, .rne, false, 1, false⟩ 2 (.v 3) (.src (.v 4)) 14),
   ([0x0006138E, 0x404000B0, 0x00000000], Instr.vclass ⟨true, .t8, .rne, false, 0, false⟩ 2 (.v 3) 0x101),
   ([0x020613AE, 0x00050000, 0x00000000], Instr.vsel ⟨true, .i8, .rne, false, 0, false⟩ 2 (.v 3) (.src (.v 4)) 5),
   ([0x000613CE, 0x07090140, 0x00000000], Instr.vcvt ⟨true, .i32, .rtz, false, 0, false⟩ 2 (.v 3) 9 .t6 true),
   ([0x020613EE, 0x00400080, 0x00000000], Instr.vscale ⟨true, .f32, .rne, false, 0, false⟩ 2 (.v 3) (.src (.v 4)) true),
   ([0x0006140E, 0x000600D0, 0x00000000], Instr.vpack ⟨true, .i4, .rne, false, 0, false⟩ 2 (.v 3) 6),
   ([0x8007BC2C], Instr.vredsum ⟨false, .i32, .dyn, false, 0, false⟩ (.k 7) (.v 3) false),
   ([0x00063C4E, 0x00400030, 0x00000000], Instr.vredmax ⟨true, .n16, .rne, false, 0, false⟩ (.v 7) (.v 3) true),
   ([0x0007FC6E, 0x00000080, 0x00000000], Instr.vredmin ⟨true, .f32, .rne, false, 0, false⟩ (.k 15) (.v 3) false)]) = true := by decide +kernel

theorem test_decode_vector_permutes_and_masks : readsAll (
  [([0x02840CAE, 0x00030010, 0x00000004], Instr.vpermb ⟨true, .n8, .rne, false, 0, false⟩ 1 (.v 2) 5 3 4),
   ([0xB8040CCC], Instr.vslideup ⟨false, .n32, .dyn, false, 0, false⟩ 1 (.v 2) (.src (.k 0))),
   ([0xE0040CED, 0x00000003, 0x00000000], Instr.vslidedown ⟨false, .i8, .dyn, false, 0, false⟩ 1 (.v 2) (.lit 3)),
   ([0x00040D0E, 0x00040000, 0x00000000], Instr.vcompress ⟨true, .i8, .rne, false, 0, false⟩ 1 (.v 2) 4),
   ([0x00040D2E, 0x000700A0, 0x00000000], Instr.vexpand ⟨true, .f16, .rne, false, 0, false⟩ 1 (.v 2) 7),
   ([0x12040D4C], Instr.vbcast ⟨false, .f32, .dyn, false, 0, false⟩ 1 (.v 2) (.src (.q 4))),
   ([0x00058D6E, 0x00000040, 0x00000005], Instr.vmv ⟨true, .i32, .rne, false, 0, false⟩ (.k 1) (.v 2) 5),
   ([0x800C0D8C], Instr.viota ⟨false, .i32, .dyn, false, 0, false⟩ 1 6),
   ([0x00000D8E, 0x00400060, 0x00000000], Instr.viotaIdx ⟨true, .i64, .rne, false, 0, false⟩ 1),
   ([0x000795AC], Instr.vmpop ⟨false, .i8, .dyn, false, 0, false⟩ 2 3),
   ([0x000795CE, 0x00000002, 0x00000000], Instr.vmfirst ⟨true, .i8, .rne, false, 2, false⟩ 2 3),
   ([0x000795EC], Instr.vany ⟨false, .i8, .dyn, false, 0, false⟩ 2 3),
   ([0x01840E0C], Instr.mand ⟨false, .i8, .dyn, false, 0, false⟩ 1 2 3),
   ([0x01840E2E, 0x00000002, 0x00000000], Instr.mor ⟨true, .i8, .rne, false, 2, false⟩ 1 2 3),
   ([0x01840E4C], Instr.mxor ⟨false, .i8, .dyn, false, 0, false⟩ 1 2 3),
   ([0x00040E6C], Instr.mnot ⟨false, .i8, .dyn, false, 0, false⟩ 1 2),
   ([0x00000E8D, 0x00000064, 0x00000000], Instr.mset ⟨false, .i8, .dyn, false, 0, false⟩ 1 (.lit 100)),
   ([0x010206AE, 0x00830081, 0x00000000], Instr.vdefer ⟨true, .f32, .rne, false, 1, false⟩ 1 2 3 0 2),
   ([0x01840ECE, 0x00C40040, 0x04000029], Instr.vdrain ⟨true, .i32, .rne, false, 0, false⟩ 1 2 3 4 3 true 9 1024),
   ([0x007E070C], Instr.vtoq ⟨false, .i8, .dyn, false, 0, false⟩ 15)]) = true := by decide +kernel

theorem test_decode_vector_memory : readsAll (
  [([0x01850832, 0x004020D9, 0x00000040], Instr.vld ⟨.i4, 1, true, true, true⟩ (.q 1) 2 (.reg 3 64)),
   ([0x01842832, 0x00008080, 0x00000040], Instr.vldff ⟨.f32, 0, false, false, false⟩ (.v 5) 2 (.reg 3 64)),
   ([0x00042853, 0x00000010, 0x00000004, 0x00000100, 0x00000000], Instr.vst ⟨.n8, 0, false, false, false⟩ 5 2 (.lit 0x100 4)),
   ([0x01842872, 0x00000022, 0xFFFFFFF0], Instr.vlds ⟨.i16, 2, false, false, false⟩ (.v 5) 2 (.reg 3 0xFFFFFFF0)),
   ([0x01842892, 0x00002060, 0x00000010], Instr.vsts ⟨.i64, 0, false, true, false⟩ 5 2 (.reg 3 16)),
   ([0x0184C0B2, 0x000000A0, 0x00000008], Instr.vldseg ⟨.f16, 0, false, false, false⟩ 24 2 (.reg 3) 8),
   ([0x0004F0D3, 0x004000A0, 0x00000002, 0x00000000, 0x00000000], Instr.vstseg ⟨.f16, 0, false, false, true⟩ 30 2 (.lit 0) 2),
   ([0x000428F2, 0x00060080, 0x00000000], Instr.vldx ⟨.f32, 0, false, false, false⟩ (.v 5) 2 6),
   ([0x00042912, 0x00060080, 0x00000000], Instr.vstx ⟨.f32, 0, false, false, false⟩ 5 2 6),
   ([0x01842932, 0x00200050, 0x00000008], Instr.vldl ⟨.n32, 0, false, false, false⟩ (.v 5) 2 (.reg 3 8) none),
   ([0x01842952, 0x001F0050, 0x00000008], Instr.vstl ⟨.n32, 0, false, false, false⟩ 5 2 (.reg 3 8) (some 31)),
   ([0x01842972, 0x00205180, 0x00000008], Instr.vrred ⟨.f32, 0, false, false, false⟩ .rtz true .dev 5 2 (.reg 3 8) none),
   ([0x00004992, 0x00000000, 0x00000000], Instr.vresume 9)]) = true := by decide +kernel

theorem test_decode_matrix : readsAll (
  [([0x00040834], Instr.mattach 1 2),
   ([0x00000836, 0x00000000, 0x00000003], Instr.mattachImm 1 3),
   ([0x0F800054], Instr.mdetach 31),
   ([0x00001874], Instr.mzero 3),
   ([0x00040896, 0x10800090, 0x00000040], Instr.mpack 1 2 .bf16 2 false true 64),
   ([0x1E0418B6, 0xC8400000, 0x00010540], Instr.mmul 3 2 (.sp 60) 1 25 64 5),
   ([0x000448D4], Instr.mdrain 9 2),
   ([0x000448D6, 0x00000000, 0x00054006], Instr.mdrainExt 9 2 .f16 true 64 5),
   ([0x038400F6, 0x00000000, 0x00000001], Instr.mdrainf 2 7 true)]) = true := by decide +kernel

theorem test_decode_copies_tiles_counters : readsAll (
  [([0x0004097A, 0x03C01800, 0x00000000], Instr.coll 1 2 7 true .sys),
   ([0x0184083A, 0x00041000, 0x00000061], Instr.cpy .dev 1 2 3 4 true 33),
   ([0x0184085A, 0x1E040800, 0x00000941], Instr.cpyseg .clus 1 2 3 4 8 3 true 9 true 1),
   ([0x0184087A, 0x00001800, 0x00000900], Instr.cpyx .sys 1 2 3 0 9 false 0),
   ([0x0185109A, 0x00C01000, 0x00000000], Instr.strm .dev 2 2 3 3),
   ([0x000118B8], Instr.strmend 3),
   ([0x018408DA, 0x00000000, 0x00000009], Instr.tdecl 1 2 3 9),
   ([0x007E00F8], Instr.trel 63),
   ([0x007E0918], Instr.tstate 1 63),
   ([0x0004013B, 0x00001800, 0x00000000, 0x00000007, 0x00000000], Instr.ccwait .sys 2 (.lit 7)),
   ([0x0184095A, 0x00001800, 0x00000000], Instr.ccadd 1 2 (.extReg 3 .sys)),
   ([0x00040998], Instr.cpyresume 1 2)]) = true := by decide +kernel

theorem test_decode_fences_and_updates : readsAll (
  [([0x0000183C], Instr.fenceAcq .sys),
   ([0x2000103C], Instr.fenceRel .dev),
   ([0x4000083C], Instr.fenceAcqrel .clus),
   ([0x000A385E, 0x00C00000, 0x00000000], Instr.ustore .addF32 false .core 7 5 (.reg 0 0)),
   ([0x0004085F, 0x07401800, 0x00000008, 0x00000010, 0x00000000], Instr.ustore .xorB64 true .sys 1 2 (.lit 16 8)),
   ([0x000A187E, 0x00420040, 0x00000000], Instr.vustore ⟨.i32, 0, false, false, false⟩ .addI32 false .core 3 5 (.reg 0 0) (some 2)),
   ([0x000A209E, 0x00021050, 0x00000000], Instr.vlockacq .dev 0 false 4 5 2 0),
   ([0x000A00BE, 0x00021050, 0x00000000], Instr.vlockrel .dev 0 false 5 2 0),
   ([0x030A00DE, 0x00401000, 0x00000000], Instr.cflush true .dev 5 (.reg 6 0)),
   ([0x000A00FF, 0x00800000, 0x00000004, 0x00000040, 0x00000000], Instr.cinv .vdev 5 (.lit 64 4))]) = true := by decide +kernel

theorem test_decode_advice : readsAdvice (
  [(0x00000000, Instr.aStop),
   (0x00053201, Instr.aPf true .mid 2 3),
   (0x00003202, Instr.aPft 2 3),
   (0x00083203, Instr.aIns .evict 2 3),
   (0x001F0204, Instr.aCpri true 2 15),
   (0x01E40005, Instr.aMord true 0xE4),
   (0x00030216, Instr.aLdidx 1 2 3),
   (0xFF001207, Instr.aAwait 0xFF00 0x12),
   (0x1FFC0008, Instr.aJmp 0x7FF),
   (0x00082139, Instr.aB .gen 1 2 2),
   (0xBEEF304A, Instr.aLi 4 0xBEEF 3),
   (0xFFFF321B, Instr.aAdd 1 2 3 0xFFFF),
   (0x0000321C, Instr.aMul 1 2 3),
   (0x0000321D, Instr.aAnd 1 2 3),
   (0x003F021E, Instr.aShr 1 2 63),
   (0x0000009F, Instr.aRdstrip 9)]) = true := by decide +kernel

/-- op 0; op 35 of class 0; fn 2; sel in one word; an extended halt; a literal of mov; b beside a literal; a field of nop; rm 7; vadd of e8; dt without a mask; q6 as a source; q0 as a destination of class 3; m8; z4; cd32; q6 of qpush; q5 of qpop; 26 planes; amo operation 9; tag 4; register 9; ff on vst; nine fields; fields beyond v31; width 3. -/
theorem test_reserved_words : refuses (
  [[0x00000000],
   [0x00000460],
   [0x40000020],
   [0x00000420],
   [0x000002EA, 0x00000000, 0x00000000],
   [0x00000401, 0x00000001, 0x00000000],
   [0x01800021, 0x00000001, 0x00000000],
   [0x00000B08],
   [0x0000002E, 0x00000780, 0x00000000],
   [0x0000002E, 0x000000F0, 0x00000000],
   [0x0000002E, 0x00000088, 0x00000000],
   [0x004C002C],
   [0x0001002C],
   [0x0010060C],
   [0x00002074],
   [0x10000184],
   [0x00013148],
   [0x004A0168],
   [0x000000B6, 0x16800000, 0x00000001],
   [0x000000A6, 0x02400000, 0x00000000],
   [0x0000005E, 0x01000000, 0x00000000],
   [0x00120208],
   [0x00000052, 0x00008000, 0x00000000],
   [0x000000B2, 0x00000080, 0x00000009],
   [0x0000C8B2, 0x00000080, 0x00000008],
   [0x018003A0]]) = true := by decide +kernel

theorem test_reserved_advice_words : [0x00020001, 0x000C0001, 0x00000010, 0x00000049, 0x0000400A, 0x00020008, 0xFFFF1007].all (fun (w : IWord) => (decodeAdvice w).isNone) = true := by decide +kernel

/-- A virtual device that holds every semaphore, data register and bank of its cluster. -/
def vdT : Vd := { fetchVd 0 with sems := BitVec.allOnes 64, cds := BitVec.allOnes 32, banks := BitVec.allOnes 32, excl := 1 }

/-- One core of that virtual device at work in the U view; its cluster caches the translation of the page at 0. -/
def t0 : State :=
  { State.reset with
    core := { Core.reset 0 with run := .running, view := .u, xmask := BitVec.allOnes 12 }
    clusters := State.reset.clusters.set 0 { Cluster.reset with tlb := [fetchPage 0] }
    part := { Part.reset with vds := [vdT] } }

/-- A core, a cluster, a part or the coherence of `t0` changed. -/
def tc (f : Core → Core) : State := { t0 with core := f t0.core }
def tcl (f : Cluster → Cluster) : State := { t0 with clusters := t0.clusters.set 0 (f t0.clusters[0]) }
def tp (f : Part → Part) : State := { t0 with part := f t0.part }
def tv (f : Vd → Vd) : State := tp (fun p => { p with vds := [f vdT] })

/-- What the page at 0 answers for an address in it. -/
def pageAt (pa : Nat) : Xl := ⟨pa, 0, false, 0, 0, [], 0x1F⟩

/-- A core with address `a` in s1 and `v` in s2. -/
def ta (a v : Word) : State := tc (fun c => { c with s := (c.s.set 1 a).set 2 v })

/-- No line of bonded DRAM is dirty. -/
theorem noAlias {s : State} (h : s.coh.dirty = []) : NoAlias s := by
  intro line
  unfold aliasDirty findDirty
  cases otherLine s line <;> simp [h]

/-! ## Numbers: the tables and worked blocks of R60, R61, R65 -/

/-- A value by its f32 code. -/
def f32 (b : Nat) : Machine.Num := decElem .f32 b

/-- R60 and R61's encoding table under rne: 2.75, -5.0, 150.0 and 0.001 to t6, 1.03125 and -1.0e6 to t8. -/
theorem test_tapered_encoding :
    taperEncode 5 .rne 0 (f32 0x40300000) = 0x16 ∧ taperEncode 5 .rne 0 (f32 0xC0A00000) = 0x38 ∧
    taperEncode 5 .rne 0 (f32 0x43160000) = 0x1E ∧ taperEncode 5 .rne 0 (f32 0x3A83126F) = 0x01 ∧
    taperEncode 7 .rne 0 (f32 0x3F840000) = 0x40 ∧ taperEncode 7 .rne 0 (f32 0xC9742400) = 0xFF := by
  decide +kernel

/-- R60's and R61's sample codes, as the f32 codes of their values. -/
theorem test_tapered_decoding :
    (([(7, 0x01, 0x39800000), (7, 0x08, 0x3C800000), (7, 0x30, 0x3F000000), (7, 0x3F, 0x3F780000), (7, 0x41, 0x3F880000),
      (7, 0x50, 0x40000000), (7, 0x60, 0x40800000), (7, 0x70, 0x41800000), (7, 0x7C, 0x43800000), (7, 0x7F, 0x45800000),
      (7, 0xC0, 0xBF800000), (5, 0x04, 0x3D800000), (5, 0x0B, 0x3EE00000), (5, 0x1B, 0x41400000), (5, 0x1F, 0x43800000)] :
        List (Nat × Nat × Nat)).all (fun p => encElem .f32 .rne false 0 (taperDecode p.1 p.2.1) == p.2.2)) = true := by
  decide +kernel

/-- Worked blocks 1 and 2 of R65. -/
theorem test_pack_blocks :
    packPlanes ([0x3FC00000, 0xBEC00000, 0x3C23D70A, 0x3F400000].map f32 ++ List.replicate 28 (f32 0)) 8 =
      (-6, [96, -24, 1, 48] ++ List.replicate 28 0) ∧
    packPlanes ([0x40FCCCCD, 0xC0000000, 0x3E99999A].map f32 ++ List.replicate 29 (f32 0)) 4 =
      (1, [4, -1, 0] ++ List.replicate 29 0) := by
  decide +kernel

/-! ## One instruction each, on small states -/

/-- What a step of an instruction leaves, through one reading of it. -/
def after {α : Type} (o : Out) (f : State → α) : Option α :=
  match o with
  | .next t => some (f t)
  | _ => none

/-- A scalar result of an instruction on s1 = a and s2 = v, in s3. -/
def scalar (i : Instr) (a v : Word) : Option Word := after (exec i (ta a v)) (fun t => t.core.s[3])

/-- R147, R148, R52: wrap, quotient and remainder corners, shift counts modulo 64, arithmetic shift, rotation, sign extension. -/
theorem test_scalar_results :
    scalar (.add 3 1 (.reg false 2)) 0xFFFFFFFFFFFFFFFF 2 = some 1 ∧
    scalar (.div 3 1 (.reg false 2)) 7 0 = some 0x7FFFFFFFFFFFFFFF ∧
    scalar (.divn 3 1 (.reg false 2)) 7 0 = some 0xFFFFFFFFFFFFFFFF ∧
    scalar (.rem 3 1 (.reg false 2)) 0xFFFFFFFFFFFFFFF9 2 = some 0xFFFFFFFFFFFFFFFF ∧
    scalar (.div 3 1 (.reg false 2)) 0x8000000000000000 0xFFFFFFFFFFFFFFFF = some 0x8000000000000000 ∧
    scalar (.shl 3 1 (.reg false 2)) 1 65 = some 2 ∧ scalar (.sra 3 1 (.imm6 63)) 0x8000000000000000 0 = some 0xFFFFFFFFFFFFFFFF ∧
    scalar (.rot 3 1 (.imm6 1)) 0x8000000000000001 0 = some 3 ∧ scalar (.sltn 3 1 (.reg false 2)) 0xFFFFFFFFFFFFFFFF 1 = some 0 ∧
    scalar (.slt 3 1 (.reg false 2)) 0xFFFFFFFFFFFFFFFF 1 = some 1 ∧ scalar (.sxt false 3 1 0) 0x80 0 = some 0xFFFFFFFFFFFFFF80 ∧
    scalar (.clz false 3 1) 0 0 = some 64 ∧ scalar (.mulhn 3 1 (.reg false 2)) 0xFFFFFFFFFFFFFFFF 0xFFFFFFFFFFFFFFFF = some 0xFFFFFFFFFFFFFFFE := by
  and_intros <;> decide +kernel

/-- s0 discards what is written (R137). -/
theorem test_s0_discards : after (exec (.add 0 1 (.imm6 1)) (ta 5 0)) (fun t => t.core.s[0]) = some 0 := by decide +kernel

/-- A store of 8 bytes, little-endian, and a signed load of one of them (R4, R149). -/
theorem test_store_then_byte :
    after (exec (.st .b64 2 1 (.lit 0)) (ta 0x100 0x80FF)) (fun t => (t.mem.read (memKey t.part 0x100), t.mem.read (memKey t.part 0x101))) =
      some (0xFF, 0x80) ∧
    after (exec (.ld .i8 3 1 (.lit 0)) { ta 0x100 0 with mem := t0.mem.writeList (memKey t0.part 0x100) [0x80] })
      (fun t => t.core.s[3]) = some 0xFFFFFFFFFFFFFF80 := by
  decide +kernel

/-- An atomic's d is operand and destination: it takes the old value (R150); a cas that misses stores nothing (R151). -/
theorem test_atomics :
    let s := { ta 0x100 5 with mem := t0.mem.writeList (memKey t0.part 0x100) [7] }
    after (exec (.amo .add .none true .dev 2 1 0 0) s) (fun t => (t.core.s[2], t.mem.readN (memKey t.part 0x100) 8)) = some (7, 12) ∧
    after (exec (.amoCas .none true .dev 2 1 0 4 0) s) (fun t => (t.core.s[2], t.mem.readN (memKey t.part 0x100) 8)) = some (7, 7) := by
  decide +kernel

/-- R154: a taken branch goes off × 4 bytes from its own pc; a call leaves the address behind its three words (R155). -/
theorem test_branches :
    after (exec (.bcc .ltn 1 (.reg 2) 0xFFFFFFFF) (tc (fun c => { c with pc := 0x100, s := c.s.set 2 1 }))) (fun t => t.core.pc) =
      some 0xFC ∧
    after (exec (.callOff 3 4) (tc (fun c => { c with pc := 0x100 }))) (fun t => (t.core.pc, t.core.s[3])) = some (0x110, 0x10C) := by
  decide +kernel

/-- R67's example: the tree of 2^24, 1.0, 1.0 at VL = 3 gives 2^24. -/
theorem test_vredsum_tree :
    after (exec (.vredsum { ext := true, et := .f32, rm := .rne, sat := false, msk := 0, dt := false } (.k 1) (.v 1) false)
      (tc (fun c => { c with vl := 3, poisonV := 0, v := c.v.set 1 0x3F8000003F8000004B800000 }))) (fun t => t.core.k[1].toNat % 2 ^ 32) =
      some 0x4B800000 := by
  decide +kernel

/-- vadd on n8 wraps, and with .sat holds at 255 (R52, R174). -/
theorem test_vadd_n8 :
    let s := tc (fun c => { c with vl := 1, poisonV := 0, v := (c.v.set 1 0xF0).set 2 0x20 })
    let f : VF := { ext := true, et := .n8, rm := .dyn, sat := false, msk := 0, dt := false }
    after (exec (.vadd f 3 (.v 1) (.src (.v 2))) s) (fun t => elemGet 8 0 t.core.v[3]) = some 0x10 ∧
    after (exec (.vadd { f with sat := true } 3 (.v 1) (.src (.v 2))) s) (fun t => elemGet 8 0 t.core.v[3]) = some 0xFF := by
  decide +kernel

/-- A trap enters the supervisor, with the address behind it to return to (R162, R347). -/
theorem test_trap_enters :
    after (exec (.trap 5) (tc (fun c => { c with pc := 0x40, cgid := 1 }))) (fun t => (t.core.view, t.core.entry.map (fun e => e.ret))) =
      some (.s, some 0x44) := by
  decide +kernel

/-! ## Witnesses: states and operands that meet the hypotheses of each statement -/

theorem witness_ScalarLoadsAndStores :
    Quiet (ta 0xFFF8 7) ∧ (ta 0xFFF8 7).core.vmq = [] ∧ (addrBVal (ta 0xFFF8 7) 1 (.reg 0)).extractLsb' 48 16 = 0 ∧
    alignedTo (addrBVal (ta 0xFFF8 7) 1 (.reg 0)) (ldBytes .d64) = true ∧
    alignedTo (addrBVal (ta 0xFFF8 7) 1 (.reg 0)) (stBytes .b64) = true ∧
    (ta 0xFFF8 7).check .load (addrBVal (ta 0xFFF8 7) 1 (.reg 0)) = .ok (pageAt 0xFFF8) ∧
    (ta 0xFFF8 7).check .store (addrBVal (ta 0xFFF8 7) 1 (.reg 0)) = .ok (pageAt 0xFFF8) ∧
    touchesPoison (ta 0xFFF8 7).poison (memKey (ta 0xFFF8 7).part 0xFFF8) (ldBytes .d64) = false ∧
    aliasDirty (ta 0xFFF8 7) (lineOf 0xFFF8) = false ∧
    ((ta 0xFFF8 7).way (pageAt 0xFFF8) 0xFFF8 false).na = false := by
  unfold Quiet; decide +kernel

/-- Bank 31 in FIFO mode, with the entries given. -/
def tFifo (q : List Word) : State := tcl (fun c => { c with cbmode := 2#64 <<< 62, fifo := c.fifo.set 31 q })

/-- The last bytes of the core store (R70), and a bank of the cluster in FIFO mode, with an entry and with room for one. -/
theorem witness_LocalAccess :
    (ta 0x7FFF8 7).core.vmq = [] ∧ untagged (addrBVal (ta 0x7FFF8 7) 1 (.lit 0)) = some 0x7FFF8 ∧
    localCheck (ta 0x7FFF8 7) 0x7FFF8 = .ok (.bytes 0x7FFF8) ∧ alignedTo (addrBVal (ta 0x7FFF8 7) 1 (.lit 0)) (ldBytes .d64) = true ∧
    touchesPoison (ta 0x7FFF8 7).locPoison 0x7FFF8 (ldBytes .d64) = false ∧
    (tFifo [7]).core.vmq = [] ∧ untagged (addrBVal (tFifo [7]) 0 (.lit 0x40003E0000)) = some 0x40003E0000 ∧
    localCheck (tFifo [7]) 0x40003E0000 = .ok (.fifo 31) ∧ (getCl (tFifo [7]) (tFifo [7]).cl).fifo[31] = [7] ∧
    (31, 0) ∉ (getCl (tFifo [7]) (tFifo [7]).cl).fifoBad ∧
    fifoTurn (tFifo [7]) 31 false false = true ∧ fifoTurn (tFifo []) 31 true false = true ∧
    localCheck (tFifo []) 0x40003E0000 = .ok (.fifo 31) ∧ ((getCl (tFifo []) (tFifo []).cl).fifo[31]).length < 16384 ∧
    alignedTo (addrBVal (tFifo []) 0 (.lit 0x40003E0000)) 8 = true := by
  decide +kernel

theorem witness_Atomics :
    Quiet (ta 0x8000000000007FF8 7) ∧ (ta 0x8000000000007FF8 7).core.vmq = [] ∧
    tagged ((ta 0x8000000000007FF8 7).sreg 1 + (ta 0x8000000000007FF8 7).sreg 0 + (0 : BitVec 32).signExtend 64) = .loc 0x7FF8 ∧
    localCheck (ta 0x8000000000007FF8 7) 0x7FF8 = .ok (.bytes 0x7FF8) ∧
    alignedTo ((ta 0x8000000000007FF8 7).sreg 1 + (ta 0x8000000000007FF8 7).sreg 0 + (0 : BitVec 32).signExtend 64) (amoBytes true) = true ∧
    touchesPoison (ta 0x8000000000007FF8 7).locPoison 0x7FF8 (amoBytes true) = false ∧
    Quiet (ta 0x10008 7) ∧ (ta 0x10008 7).core.vmq = [] ∧
    tagged ((ta 0x10008 7).sreg 1 + (ta 0x10008 7).sreg 0 + (0xFFFFFFF4 : BitVec 32).signExtend 64) = .gen 0xFFFC ∧
    (0xFFFC : Word).extractLsb' 48 16 = 0 ∧ alignedTo 0xFFFC (amoBytes false) = true ∧
    (ta 0x10008 7).check .atomic 0xFFFC = .ok (pageAt 0xFFFC) ∧
    touchesPoison (ta 0x10008 7).poison (memKey (ta 0x10008 7).part 0xFFFC) (amoBytes false) = false ∧
    aliasDirty (ta 0x10008 7) (lineOf 0xFFFC) = false := by
  unfold Quiet; decide +kernel

theorem witness_ClusterRegisters :
    semOk t0 63 = true ∧ semBusy (getCl t0 t0.cl) 63 = false ∧ (getCl t0 t0.cl).semGrant.contains (63, t0.core.index) = false ∧
    Quiet t0 ∧ t0.core.vmq = [] ∧ (getCl t0 t0.cl).semWait.any (fun w => w.1 == 63) = false ∧ cdOk t0 31 = true ∧ vmqFences t0 true = false ∧
    (let s := tcl (fun c => { c with semGrant := [(63, 0)] })
     semOk s 63 = true ∧ (getCl s s.cl).semGrant.contains (63, s.core.index) = true) ∧
    (let s := tcl (fun c => { c with sem := 1, semWait := [(0, 5)] })
     semOk s 0 = true ∧ Quiet s ∧ s.core.vmq = [] ∧ (getCl s s.cl).semWait.find? (fun w => w.1 == 0) = some (0, 5)) := by
  unfold Quiet; decide +kernel

theorem witness_JumpsAndBranches :
    ((ta 0x100 2).sreg 1).extractLsb' 0 2 = 0 ∧ ((ta 0x100 2).sreg 2).extractLsb' 0 2 ≠ 0 ∧
    (ta 0x100 2).sreg 1 ≠ regLitVal (ta 0x100 2) (.reg 2) ∧ (ta 0x100 2).sreg 1 = regLitVal (ta 0x100 2) (.lit 0x100) ∧
    decodeRaw (.ext ⟨5, 0, 1, 0, 1, 2⟩ { Ext.zero with w2 := 7 }) = some (.bcc .gen 1 (.reg 0) 7) ∧
    decodeRaw (.extLit ⟨0, 0, 1, 0, 1, 2⟩ { Ext.zero with w2 := 7 } 9) = some (.bcc .eq 1 (.lit 9) 7) := by
  decide +kernel

theorem witness_QueuesAndFlags :
    (tc (fun c => { c with q6 := [5] })).core.q6 = [5] ∧ t0.core.q6 = [] ∧ t0.core.wait ≠ .q6 ∧ t0.core.q4.length < 32 ∧
    t0.core.q5.length < 32 ∧ t0.core.q7.length < 64 ∧ 32 ≤ (tc (fun c => { c with q4 := List.replicate 32 0 })).core.q4.length ∧
    t0.core.streams[(3 : Fin 4)] = none := by
  decide +kernel

theorem witness_StripsAndBelay :
    t0.core.viq = [] ∧ t0.slowEp = false ∧ (∀ q : Fin 4, t0.core.vq[q] = []) ∧ preemptPending t0 = false ∧ t0.core.adv.st = .off ∧
    1 ≤ setvlCap t0 .w32 (.reg 0) ∧ setvlCap t0 .w32 (.reg 0) ≤ vlmax (vwBits .w32) ∧ cdOk t0 31 = true ∧ vmqFences t0 true = false ∧
    (getCl t0 t0.cl).cd[(31 : Fin 32)].toNat + 2 * setvlCap t0 .w32 (.reg 0) < 2 ^ 64 ∧
    1 ≤ setvlCap t0 .w64 (.lit 1) ∧ setvlCap t0 .w64 (.lit 1) ≤ vlmax (vwBits .w64) := by
  decide +kernel

/-- Every state of the sequencer falls under one clause of a cairn, and every wait under one of `wait` and of its timeout. -/
theorem witness_TimeAndNothing :
    t0.core.adv.st = .off ∧ (tc (fun c => { c with adv := { c.adv with st := .stopped } })).core.adv.st = .stopped ∧
    (∀ n ∈ [63, 64],
      let s := tc (fun c => { c with adv := { c.adv with st := .running, fifo := List.replicate n (0, 0) } })
      s.core.adv.st ≠ .off ∧ s.core.adv.st ≠ .stopped ∧ s.core.adv.fifo.length = n) ∧
    (∀ w ∈ [Wait.none, .q6, .other], ∀ n, (tc (fun c => { c with wait := w })).core.wait ≠ .clocks n) ∧
    t0.sreg 0 = 0 ∧ (ta 1 0).sreg 1 ≠ 0 ∧ preemptPending (ta 1 0) = false ∧
    (tc (fun c => { c with wait := .clocks 0 })).core.wait = .clocks 0 ∧
    (tc (fun c => { c with wait := .clocks 7 })).core.wait = .clocks (6 + 1) := by
  refine ⟨by decide +kernel, by decide +kernel, by decide +kernel, ?_, by decide +kernel, by decide +kernel, by decide +kernel,
    by decide +kernel, by decide +kernel⟩
  intro w h n
  have : (tc (fun c => { c with wait := w })).core.wait = w := rfl
  rw [this]
  revert h; cases w <;> simp

/-- The supervisor of the group, entered by a trap. -/
def tS : State :=
  tc (fun c => { c with view := .s, entry := some { kind := 22, ret := 4, vector := false, wait := .none, page := none, ns := 0, stop := none, bank := Vector.replicate 8 0 } })

/-- A store of the vector memory queue that nothing keeps from being performed. -/
def vmOpT : VmOp :=
  { ins := .vst ⟨.f32, 0, false, false, false⟩ 2 1 (.reg 0 0), cap := capture t0 0 0 12, partly := false, regs := none, acc := 0, cov := [] }

theorem witness_TrapEntersSupervisor :
    t0.core.view ≠ .s ∧ entryWaits t0 = false ∧ t0.core.run ≠ .yielded ∧
    (let s := tc (fun c => { c with vmq := [vmOpT] })
     s.core.view ≠ .s ∧ entryWaits s = true) := by
  decide +kernel

theorem witness_ReturnAndPrivilege :
    tS.core.view = .s ∧ tS.core.entry = some { kind := 22, ret := 4, vector := false, wait := .none, page := none, ns := 0, stop := none, bank := Vector.replicate 8 0 } ∧ Quiet tS ∧ releaseWaits tS = false ∧
    (∀ c ∈ tS.rest, inGroup tS.core.cgid c = true → c.entry = none) ∧ t0.core.view = .u ∧
    (let e : Entry := { kind := 8, ret := 0x40, vector := false, wait := .none, page := some 0xFFF8, ns := 0, stop := none, bank := Vector.replicate 8 0 }
     let s := tc (fun c => { c with view := .s, entry := some e, tlb := [fetchPage 0] })
     s.core.view = .s ∧ s.core.entry = some e ∧ Quiet s ∧ releaseWaits s = false ∧ e.page = some 0xFFF8) ∧
    (let s := { tS with core := { tS.core with vmq := [vmOpT] } }
     s.core.view = .s ∧ s.core.entry.isSome = true ∧ releaseWaits s = true) := by
  unfold Quiet; decide +kernel

/-- Two cores of one group. -/
def t2 : State := { t0 with rest := [{ t0.core with index := 1 }] }

theorem witness_FaultsAndKills :
    t0.core.view ≠ .s ∧ repairKind 5 = false ∧ (5 : BitVec 8) ≠ 25 ∧ (5 : BitVec 8) ≠ 26 ∧ (5 : BitVec 8) ≠ 30 ∧ (5 : BitVec 8) ≠ 31 ∧
    tS.core.view = .s ∧ repairKind 22 = true ∧ entryWaits t0 = false ∧ t0.core.run ≠ .yielded ∧
    (let s := tc (fun c => { c with run := .yielded })
     s.core.view ≠ .s ∧ entryWaits s = false ∧ s.core.run = .yielded) ∧
    vmOpT.cap.sup = false ∧ t0.core.view = .u ∧ t0.core.run ≠ .off ∧
    (∀ r ∈ [(⟨8, 0x1000, 0, 3⟩ : PartRec), ⟨11, 0x1004, 1, 0⟩], repairKind r.kind = true) ∧
    (∃ r ∈ [(⟨8, 0x1000, 0, 3⟩ : PartRec), ⟨9, 0x1004, 1, 0⟩], repairKind r.kind = false) ∧ Quiet t0 ∧
    (∀ k ∈ [(25 : BitVec 8), 26], (rejectLaunch t0 vdT ⟨t0.core.cgid, t0.core.index.val, 0, 0, 0⟩ k 1 0x400 0 false).isSome = true) ∧
    (∀ c ∈ t2.rest, c.index ≠ t2.core.index) ∧ t2.rest.Pairwise (fun x y => x.index ≠ y.index) ∧ t2.core.run ≠ .off ∧
    (∃ c ∈ (takeKill t2 { kind := 5, pc := 0, strip := 0 }).cores, c.cgid = t2.core.cgid ∧ (t2.getCore c.index).run ≠ .off) := by
  unfold Quiet; decide +kernel

theorem witness_FaultRecords :
    (let d := { vdT with fq := ⟨0xFFFF, 0, 63⟩ }
     findVd (tv (fun _ => d)).part 0 = some d ∧ d.vdid = 0 ∧ recsOf (tv (fun _ => d)).part 0 false = [] ∧ (d.fq.tail.toNat + 1) % d.faultn = d.fq.head.toNat % d.faultn) ∧
    (let d := { vdT with fq := ⟨0, 1, 63⟩ }
     findVd (tv (fun _ => d)).part 0 = some d ∧ recsOf (tv (fun _ => d)).part 0 false = [] ∧ (d.fq.tail.toNat + 1) % d.faultn ≠ d.fq.head.toNat % d.faultn ∧
     Quiet (tv (fun _ => d)) ∧ 0 < d.faultn ∧ d.faultn ≤ 2 ^ 16 ∧
     vdCheck (tv (fun _ => d)) d .store (d.faultq + BitVec.ofNat 64 (64 * d.fq.tail.toNat)) = .ok (pageAt 0x1FC0) ∧
     aliasDirty (tv (fun _ => d)) (lineOf 0x1FC0) = false ∧ activeFor (tv (fun _ => d)) (lineOf 0x1FC0) = none) ∧
    (let s := { t0 with coh := { Coherence.reset with hand := ⟨0, 0, 1, 1, 0⟩ } }
     findVd s.part 0 = some vdT ∧ recsOf s.part 0 false = [] ∧ (vdT.fq.tail.toNat + 1) % vdT.faultn ≠ vdT.fq.head.toNat % vdT.faultn ∧
     vdCheck s vdT .store (vdT.faultq + BitVec.ofNat 64 (64 * vdT.fq.tail.toNat)) = .stall) := by
  unfold Quiet; decide +kernel

theorem witness_SystemRegisters :
    t0.core.view = .u ∧ tS.core.view ≠ .u := by decide +kernel

theorem witness_BankModes :
    tS.core.view = .s ∧ (getCl tS tS.cl).busy = 0 ∧
    ((List.range 32).filter (fun b => modeOf 0x1555555555555555 b == 0)).length < 4 ∧
    4 ≤ ((List.range 32).filter (fun b => modeOf 0x0055555555555555 b == 0)).length ∧ (∀ b : Fin 32, (getCl tS tS.cl).fifo[b] = []) ∧
    (let s := tcl (fun c => { c with cbmode := 1, asked := 2, busy := 1 })
     (getCl s 0).busy.getLsbD 0 = true ∧ modeOf (getCl s 0).cbmode 0 ≠ 0) ∧
    (let s := tcl (fun c => { c with busy := 3 })
     (0 : Fin 32) < 1 ∧ (getCl s 0).busy.getLsbD 0 = true) := by
  decide +kernel

/-- No core waits for a bank. -/
theorem witness_BankModes_blocked (b : Nat) : fifoBlocked tS tS.cl b = false := by
  rfl

/-- A handover of frame 0x1000 to the host that has begun n ns ago. -/
def tHand (n : Nat) : State := { tS with coh := { Coherence.reset with hand := ⟨0x1000, 0, 1, 1, n⟩ } }

theorem witness_HandoverAndStop :
    (tHand 20000).coh.hand.status = 1 ∧ Quiet (tHand 0) ∧ 20000 ≤ (tHand 20000).coh.hand.ns ∧ (tHand 20000).coh.hand.ns < 1000000 ∧
    1000000 ≤ (tHand 1000000).coh.hand.ns ∧ Quiet (tHand 1000000) ∧ tS.coh.hand.status ≠ 1 ∧ tS.core.view ≠ .u ∧ (tHand 20000).coh.outside = [] ∧
    (tHand 20000).part.recs = [] ∧ (tHand 0).coh.outside = [] ∧ (tHand 0).part.recs = [] ∧ (tHand 1000000).coh.outside = [] ∧
    (tHand 1000000).part.recs = [] ∧
    (0x1000100 : Word).extractLsb' 8 2 ≠ 3 ∧ window tS.part (((0x1000100 : Word).extractLsb' 24 36).toNat * 2 ^ 16) ≠ .absent ∧
    tS.coh.pages.length < 65536 := by
  unfold Quiet; decide +kernel

theorem witness_PagesAndTranslations :
    tS.core.view ≠ .u ∧ countedFrame tS.part (tS.sreg 0) = some 0 ∧ Quiet tS ∧
    (let s := { tS with core := { tS.core with s := tS.core.s.set 1 0x000F000000000000 } }
     s.core.view ≠ .u ∧ countedFrame s.part (s.sreg 1) = none) := by
  unfold Quiet; decide +kernel

/-- A record of one virtual core at 0x400, s1 naming it. -/
def recRaw : Nat := 2 ^ 256 + 2 ^ 272 + 2 ^ 288 + 2 ^ 304 + 0x80000001 * 2 ^ 320

def tRec (raw : Nat) : State := { ta 0x400 0 with mem := t0.mem.writeList (memKey t0.part 0x400) (natBytes 256 raw) }

def tFull : State :=
  let s := tRec recRaw
  { s with part := { s.part with vds := [{ vdT with queues := vdT.queues.set 0 (List.replicate 64
      { cgid := 0, addr := 0, lr := parseRecord recRaw, pid := 0, tid := 0 }) }] } }

theorem witness_GroupsBeginAndEnd_lines : NoAlias (tRec recRaw) ∧ NoAlias tFull ∧ NoAlias (tRec 0) :=
  ⟨noAlias rfl, noAlias rfl, noAlias rfl⟩

theorem witness_GroupsBeginAndEnd :
    Quiet (tRec recRaw) ∧ (tRec recRaw).core.vmq = [] ∧ ((tRec recRaw).sreg 1).extractLsb' 48 16 = 0 ∧
    alignedTo ((tRec recRaw).sreg 1) 64 = true ∧
    readPieces (tRec recRaw) ((tRec recRaw).check .load) (tRec recRaw).cl 4 ((tRec recRaw).sreg 1) = .ok recRaw ∧
    (tRec recRaw).vd = some vdT ∧ (vdT.queues[(parseRecord recRaw).prio]).length < 64 ∧ recordOk recRaw = true ∧
    canPlace vdT (parseRecord recRaw) = true ∧ (parseRecord recRaw).fin = 0 ∧ (parseRecord recRaw).deps.all (fun x => x.1 == 0) = true ∧
    countLive (tRec recRaw).part vdT vdT.count = false ∧
    tFull.vd.map (fun v => (v.queues[(parseRecord recRaw).prio]).length) = some 64 ∧
    readPieces (tRec 0) ((tRec 0).check .load) (tRec 0).cl 4 ((tRec 0).sreg 1) = .ok 0 ∧ (tRec 0).vd = some vdT ∧
    (vdT.queues[(parseRecord 0).prio]).length < 64 ∧ recordOk 0 = false ∧ (parseRecord 0).fin = 0 ∧
    haltReady t0.core = true ∧ haltReady (tc (fun c => { c with mats := [⟨.mzero 0, 1, 0, 0, 0, 0, 0, 16, [], .moving⟩] })).core = false := by
  unfold Quiet; decide +kernel

/-- VL 4, whole and real numbers in v1 and v2, an entry in q0 and q4. -/
def t3 : State := tc (fun c => { c with
  vl := 4, v := (c.v.set 1 0x7FFFFFFF80000000FFFFFFFF00000001).set 2 0x3F800000BF8000007F80000000000002, q4 := [7]
  vq := c.vq.set 0 [⟨5, 16, 0, 0⟩], poisonV := 0xFFFF0000, m := c.m.set 1 5, k := c.k.set 3 2 })

/-- Its core after a pop of q4, and after one of q0. -/
def t3q : Core := { t3.core with q4 := [], queueEdges := 0 }
def t3v : Core := { t3.core with vq := t3.core.vq.set 0 [], queueEdges := 0 }

/-- Sources of the EP: two registers; q4 and the literal under a mask; one register; three with companions. -/
theorem witness_VectorIntegers :
    ElemTy.isI .i8 = true ∧ ElemTy.isI .n64 = true ∧
    EpReady t3 [.src (.v 1), .src (.v 2)] [] [ElemTy.regW .n64] ((0 : Fin 8) != 0) t3.core [.vec t3.core.v[1], .vec t3.core.v[2]] ∧
    EpReady t3 [.src (.q 4), .lit 9] [] [ElemTy.regW .i8] ((1 : Fin 8) != 0) t3q [.scal 7, .scal 9] ∧
    EpReady t3 [.src (.q 0)] [] [ElemTy.regW .i8] ((0 : Fin 8) != 0) t3v [.ent ⟨5, 16, 0, 0⟩] := by
  unfold EpReady EpIdle; and_intros <;> decide +kernel

theorem witness_VectorRounding :
    ElemTy.isFT .f32 = true ∧ ElemTy.isFT .t6 = true ∧
    EpReady t3 [.src (.v 1), .src (.v 2)] [] [ElemTy.regW .f32] ((0 : Fin 8) != 0) t3.core [.vec t3.core.v[1], .vec t3.core.v[2]] ∧
    EpReady t3 [.src (.q 4), .lit 9] [] [ElemTy.regW .t6] ((1 : Fin 8) != 0) t3q [.scal 7, .scal 9] ∧
    EpReady t3 [.src (.v 1)] [] [ElemTy.regW .bf16] ((0 : Fin 8) != 0) t3.core [.vec t3.core.v[1]] ∧
    EpReady t3 [.src (.v 1), .src (.v 2), .src (.v 3)]
      ((if (0x2320 : BitVec 32).getLsbD 5 then [fmaCa 0x2320] else []) ++ (if (0x2320 : BitVec 32).getLsbD 13 then [fmaCb 0x2320] else []))
      [ElemTy.regW .f32] ((0 : Fin 8) != 0) t3.core [.vec t3.core.v[1], .vec t3.core.v[2], .vec t3.core.v[3]] ∧
    EpReady t3 [.src (.v 1), .src (.k 3), .src (.v 3)]
      ((if (0 : BitVec 32).getLsbD 5 then [fmaCa 0] else []) ++ (if (0 : BitVec 32).getLsbD 13 then [fmaCb 0] else []))
      [ElemTy.regW .i32] ((0 : Fin 8) != 0) t3.core [.vec t3.core.v[1], .scal 2, .vec t3.core.v[3]] := by
  unfold EpReady EpIdle; and_intros <;> decide +kernel

theorem witness_VectorCompare :
    EpReady t3 [.src (.v 1), .src (.v 2)] [] [ElemTy.regW .i32] true t3.core [.vec t3.core.v[1], .vec t3.core.v[2]] ∧
    EpReady t3 [.src (.v 2)] [] [ElemTy.regW .f32] true t3.core [.vec t3.core.v[2]] ∧ ElemTy.isI .i32 = true ∧
    ElemTy.isFT .f32 = true ∧ decElem .f32 (sElem .f32 (.vec t3.core.v[2]) 0) ≠ .nan := by
  unfold EpReady EpIdle; and_intros <;> decide +kernel

theorem witness_VectorConvert :
    EpReady t3 [.src (.v 1)] [] [ElemTy.regW .i8, ElemTy.regW .i64] ((0 : Fin 8) != 0) t3.core [.vec t3.core.v[1]] ∧
    EpReady t3 [.src (.v 2)] [] [ElemTy.regW .i32, ElemTy.regW .f32] ((0 : Fin 8) != 0) t3.core [.vec t3.core.v[2]] ∧
    EpReady t3 [.src (.v 2)] [4] [ElemTy.regW .bf16, ElemTy.regW .t8] ((0 : Fin 8) != 0) t3.core [.vec t3.core.v[2]] ∧
    EpReady t3 [.src (.v 2), .src (.k 3)] [] [ElemTy.regW .f32] ((0 : Fin 8) != 0) t3.core [.vec t3.core.v[2], .scal 2] ∧
    EpReady t3 [.src (.v 3)] [] [ElemTy.regW .t8, 32] ((0 : Fin 8) != 0) t3.core [.vec 0] ∧ t3.core.vl ≠ 0 ∧ (5 : VReg) ≠ 6 ∧
    (∀ e ∈ activeList t3 0, (decElem .f32 (sElem .f32 (.vec 0) e)).isZero = true) ∧
    (let s := tc (fun c => { c with vl := 1, v := c.v.set 3 0x7F800000 })
     EpReady s [.src (.v 3)] [] [ElemTy.regW .t8, 32] ((0 : Fin 8) != 0) s.core [.vec 0x7F800000] ∧ s.core.vl ≠ 0 ∧
     ∀ e ∈ activeList s 0, (decElem .f32 (sElem .f32 (.vec 0x7F800000) e)).isFinite = false) := by
  unfold EpReady EpIdle; and_intros <;> decide +kernel

theorem witness_VectorReductions :
    EpReady t3 [.src (.v 1)] [] [ElemTy.regW .i16] ((1 : Fin 8) != 0) t3.core [.vec t3.core.v[1]] ∧ t3.core.vl ≠ 0 ∧
    activeList t3 1 = [0, 2] ∧ EpReady t3 [.src (.v 1)] [] [ElemTy.regW .n32] ((0 : Fin 8) != 0) t3.core [.vec t3.core.v[1]] ∧
    EpReady t3 [.src (.v 2)] [] [ElemTy.regW .f32] ((0 : Fin 8) != 0) t3.core [.vec t3.core.v[2]] ∧ t3.core.vl = 4 := by
  unfold EpReady EpIdle; and_intros <;> decide +kernel

theorem witness_VectorPermutes :
    EpReady t3 [.src (.v 1), .src (.k 3)] [] [ElemTy.regW .i8] ((1 : Fin 8) != 0) t3.core [.vec t3.core.v[1], .scal 2] ∧
    EpReady t3 [.src (.v 1)] [] [ElemTy.regW .i8] ((0 : Fin 8) != 0) t3.core [.vec t3.core.v[1]] ∧
    EpReady t3 [.src (.q 4)] [] [] false t3q [.scal 7] ∧ getS [.scal 7] 0 = .scal 7 ∧
    EpReady t3 [.src (.v 1)] [] [ElemTy.regW .i16] true t3.core [.vec t3.core.v[1]] ∧
    EpReady t3 [] [] [ElemTy.regW .i64] true t3.core [] ∧ EpReady t3 [] [] [ElemTy.regW .i32] ((2 : Fin 8) != 0) t3.core [] ∧
    EpReady t3 [.src (.v 1)] [2, 3] [ElemTy.regW .f32] false t3.core [.vec t3.core.v[1]] ∧ t3.core.vl ≠ 0 := by
  unfold EpReady EpIdle; and_intros <;> decide +kernel

theorem witness_MaskInstructions :
    EpReady t3 [] [] [] true t3.core [] ∧ EpReady t3 [.src (.k 3)] [] [] true t3.core [.scal 2] ∧
    (activeList t3 0).filter (fun e => (t3.core.m[1]).getLsbD e) = [0, 2] ∧
    (activeList t3 0).filter (fun e => (t3.core.m[2]).getLsbD e) = [] ∧
    Instr.wf (.mand ⟨true, .i8, .rne, false, 2, false⟩ 0 1 2) = true ∧ Instr.wf (.mset ⟨false, .i8, .dyn, false, 0, false⟩ 0 (.lit 1)) = true := by
  unfold EpReady EpIdle; and_intros <;> decide +kernel

theorem witness_DeferHashTransfer :
    hashTy .i32 = true ∧ hashTy .n32 = true ∧
    EpReady t3 [.src (.v 1), .src (.v 2)] [] [ElemTy.regW .n32] ((0 : Fin 8) != 0) t3.core [.vec t3.core.v[1], .vec t3.core.v[2]] ∧
    EpReady t3 [] (firstRegs 3 1 2 3 4) [32] ((1 : Fin 8) != 0) t3.core [] ∧
    t3.core.defer.length + (activeList t3 1).length ≤ 4096 ∧ EpIdle t3 ∧ (1024 : BitVec 11).toNat ≤ 1024 ∧
    (firstRegs 3 1 2 3 4 ++ [5]).Nodup ∧ t3.core.q6.length < 32 := by
  unfold EpReady EpIdle; and_intros <;> decide +kernel

theorem witness_VectorFaults : EpIdle t3 ∧ t3.core.entry = none ∧ t3.core.isPoisoned 31 = true ∧ tS.core.view = .s := by
  unfold EpIdle; decide +kernel

/-- VL 4 and index 0, 1, 2, 3 in v1, s1 the address. -/
def t4 (va : Word) : State :=
  tc (fun c => { c with vl := 4, s := c.s.set 1 va, v := (c.v.set 1 0x00000003000000020000000100000000).set 2 0x0102030405060708 })

def descOf (i : Instr) : VmDesc := (vmDesc i).getD ⟨.store, .unit, .i8, 0, false, false, false, [], none, none⟩

/-- The accesses of an element that pass their checks. -/
def found (s : State) (i : Instr) (b : Word) (n e : Nat) : List Piece :=
  match checkElem s (descOf i) ((descOf i).raws (capture s (s.sreg 1) b n) ((descOf i).grab s.core).idx e) with
  | .ok l => l
  | _ => []

/-- `VmReady` of an instruction with address s1 and what it finds. -/
def Takes (s : State) (i : Instr) (b : Word) (n : Nat) : Prop :=
  VmReady s i (descOf i) (capture s (s.sreg 1) b n) (found s i b n)

def plainVm (t : ElemTy) : VM := ⟨t, 0, false, false, false⟩

/-- Loads into a register or a queue from the last words of the page, of the core store, of a lane's slice. -/
theorem witness_VectorLoads :
    Takes (t4 0xFFF0) (.vld (plainVm .f32) (.v 31) 1 (.reg 0 0)) 0 12 ∧
    Takes (t4 0xFFF0) (.vld (plainVm .i32) (.q 3) 1 (.reg 0 0)) 0 12 ∧ ((t4 0xFFF0).core.vq[(3 : Fin 4)]).length < 4 ∧
    Takes (t4 0xFFE0) (.vldff (plainVm .i64) (.v 31) 1 (.reg 0 0)) 0 12 ∧
    Takes (t4 0xFFF8) (.vlds (plainVm .i32) (.v 31) 1 (.reg 0 0xFFFFFFFC)) 0xFFFFFFFFFFFFFFFC 12 ∧
    Takes (t4 0xFFF8) (.vldseg (plainVm .i8) 30 1 (.reg 0) 2) 0 12 ∧
    Takes (t4 0xFFF0) (.vldx (plainVm .n32) (.v 31) 1 1) 0 12 ∧
    Takes (t4 0x3FFC) (.vldl (plainVm .n32) (.v 31) 1 (.reg 0 0) none) 0 12 := by
  unfold Takes VmReady Quiet EpIdle; and_intros <;> decide +kernel

/-- No store of the accesses goes to a line in W, as a check. -/
def toMem (s : State) (na : Bool) (l : List Piece) : Bool :=
  l.all (fun p => match p.dst with
    | .gen x => !(s.way x p.raw.va na).na
    | _ => true)

theorem toMemory_of {s : State} {na : Bool} {d : VmDesc} {ps : Nat → List Piece}
    (h : (activeList s d.msk).all (fun e => toMem s na (ps e)) = true) : ToMemory s na d ps := by
  intro e he p hp x hx
  simpa [toMem, hx] using List.all_eq_true.mp (List.all_eq_true.mp h e he) p hp

/-- No access of a list meets a line that is dirty under its other address, and no two meet one line under both, as a check. -/
def unaliased (s : State) (l : List Piece) : Bool :=
  l.all (fun p => match p.dst with
    | .gen x => !aliasDirty s (lineOf x.pa) && l.all (fun q => match q.dst with
      | .gen y => memKey s.part (lineOf x.pa * 128) != memKey s.part (lineOf y.pa * 128) || lineOf x.pa == lineOf y.pa
      | _ => true)
    | _ => true)

theorem unaliased_pair {s : State} {l : List Piece} (h : unaliased s l = true) {p : Piece} (hp : p ∈ l) {x : Xl}
    (hx : p.dst = .gen x) : aliasDirty s (lineOf x.pa) = false ∧ ∀ q ∈ l, ∀ y, q.dst = .gen y →
      memKey s.part (lineOf x.pa * 128) = memKey s.part (lineOf y.pa * 128) → lineOf x.pa = lineOf y.pa := by
  have h1 := List.all_eq_true.mp h p hp
  simp only [hx, Bool.and_eq_true, Bool.not_eq_true'] at h1
  refine ⟨h1.1, fun q hq y hy hk => ?_⟩
  have h2 := List.all_eq_true.mp h1.2 q hq
  simpa [hy, hk] using h2

theorem unaliased_of {s : State} {d : VmDesc} {ps : Nat → List Piece}
    (h : unaliased s ((activeList s d.msk).flatMap ps) = true) : Unaliased s d ps := by
  intro e he p hp x hx
  have h1 := unaliased_pair h (List.mem_flatMap.mpr ⟨e, he, hp⟩) hx
  exact ⟨h1.1, fun e' he' q hq y hy => h1.2 q (List.mem_flatMap.mpr ⟨e', he', hq⟩) y hy⟩

theorem witness_VectorStores :
    (let i : Instr := .vst (plainVm .f32) 2 1 (.reg 0 0)
     Takes (t4 0xFFF0) i 0 12 ∧ ToMemory (t4 0xFFF0) false (descOf i) (found (t4 0xFFF0) i 0 12) ∧
     Apart (t4 0xFFF0) (descOf i) (found (t4 0xFFF0) i 0 12)) ∧
    (let i : Instr := .vsts (plainVm .i32) 2 1 (.reg 0 0xFFFFFFFC)
     Takes (t4 0xFFFC) i 0xFFFFFFFFFFFFFFFC 12 ∧
     ToMemory (t4 0xFFFC) false (descOf i) (found (t4 0xFFFC) i 0xFFFFFFFFFFFFFFFC 12)) ∧
    (let i : Instr := .vstseg (plainVm .i8) 1 1 (.reg 0) 2
     Takes (t4 0xFFF8) i 0 12 ∧ ToMemory (t4 0xFFF8) false (descOf i) (found (t4 0xFFF8) i 0 12)) ∧
    (let i : Instr := .vstx (plainVm .n32) 2 1 1
     Takes (t4 0xFFF0) i 0 12 ∧ ToMemory (t4 0xFFF0) false (descOf i) (found (t4 0xFFF0) i 0 12)) ∧
    (let i : Instr := .vstl (plainVm .n32) 2 1 (.reg 0 0) (some 3)
     Takes (t4 0x3FFC) i 0 12 ∧ ToMemory (t4 0x3FFC) false (descOf i) (found (t4 0x3FFC) i 0 12)) := by
  unfold Takes VmReady Quiet EpIdle Apart
  and_intros <;> first | exact toMemory_of (by decide +kernel) | decide +kernel

theorem witness_VectorLoads_lines :
    Unaliased (t4 0xFFF0) (descOf (.vld (plainVm .f32) (.v 31) 1 (.reg 0 0)))
      (found (t4 0xFFF0) (.vld (plainVm .f32) (.v 31) 1 (.reg 0 0)) 0 12) ∧
    Unaliased (t4 0xFFF0) (descOf (.vld (plainVm .i32) (.q 3) 1 (.reg 0 0)))
      (found (t4 0xFFF0) (.vld (plainVm .i32) (.q 3) 1 (.reg 0 0)) 0 12) ∧
    Unaliased (t4 0xFFF0) (descOf (.vldx (plainVm .n32) (.v 31) 1 1)) (found (t4 0xFFF0) (.vldx (plainVm .n32) (.v 31) 1 1) 0 12) ∧
    Unaliased (t4 0x3FFC) (descOf (.vldl (plainVm .n32) (.v 31) 1 (.reg 0 0) none))
      (found (t4 0x3FFC) (.vldl (plainVm .n32) (.v 31) 1 (.reg 0 0) none) 0 12) := by
  and_intros <;> exact unaliased_of (by decide +kernel)

theorem witness_VectorAtomics :
    (let i : Instr := .vrred (plainVm .i32) .rne true .core 2 1 (.reg 0 0) none
     Takes (t4 0x7FFF0) i 0 12 ∧ Apart (t4 0x7FFF0) (descOf i) (found (t4 0x7FFF0) i 0 12) ∧
     (plainVm .i32).et.isI = true) ∧
    (let i : Instr := .vlockacq .dev 0 false 4 1 1 0
     Takes (t4 0xFFE0) i 0 12 ∧ Apart (t4 0xFFE0) (descOf i) (found (t4 0xFFE0) i 0 12) ∧
     Unaliased (t4 0xFFE0) (descOf i) (found (t4 0xFFE0) i 0 12)) ∧
    (let i : Instr := .vlockrel .dev 0 false 1 1 0
     Takes (t4 0xFFE0) i 0 12 ∧ Apart (t4 0xFFE0) (descOf i) (found (t4 0xFFE0) i 0 12) ∧
     ToMemory (t4 0xFFE0) false (descOf i) (found (t4 0xFFE0) i 0 12)) := by
  unfold Takes VmReady Quiet EpIdle Apart
  and_intros <;> first | exact toMemory_of (by decide +kernel) | exact unaliased_of (by decide +kernel) | decide +kernel

/-- Elements 0 and 1 end the page, which no page follows. -/
theorem witness_FirstFaultAndResume :
    (let s := t4 0xFFF8
     let c := capture s (s.sreg 1) (addrXVal s (.reg 0 0)) (addrXLen (.reg 0 0))
     EpIdle s ∧ s.core.vmq = [] ∧ Quiet s ∧ (plainVm .f32).msk = 0 ∧ s.core.team = false ∧ 0 < 2 ∧ 2 < s.core.vl ∧
     s.core.vl ≤ 32768 / (plainVm .f32).et.regW ∧
     (∀ i, i < 2 → checkElem s (descOf (.vldff (plainVm .f32) (.v 5) 1 (.reg 0 0)))
         ((descOf (.vldff (plainVm .f32) (.v 5) 1 (.reg 0 0))).raws c 0 i) =
       .ok (found s (.vldff (plainVm .f32) (.v 5) 1 (.reg 0 0)) 0 12 i) ∧
       ∀ p ∈ found s (.vldff (plainVm .f32) (.v 5) 1 (.reg 0 0)) 0 12 i, p.isFifo = false) ∧
     checkElem s (descOf (.vldff (plainVm .f32) (.v 5) 1 (.reg 0 0)))
       ((descOf (.vldff (plainVm .f32) (.v 5) 1 (.reg 0 0))).raws c 0 2) = .bad ⟨8, 3, 0x10000, none, false, [0]⟩ ∧
     checkElem s (descOf (.vldff (plainVm .f32) (.v 5) 1 (.reg 0 0)))
       ((descOf (.vldff (plainVm .f32) (.v 5) 1 (.reg 0 0))).raws c 0 3) = .bad ⟨8, 3, 0x10004, none, false, [0]⟩) ∧
    (let s := t4 0xFFF8
     unaliased s ((List.range 2).flatMap (found s (.vldff (plainVm .f32) (.v 5) 1 (.reg 0 0)) 0 12)) = true) ∧
    tS.core.view ≠ .u ∧ tS.core.vmq = [] := by
  unfold Quiet EpIdle; and_intros <;> decide +kernel

/-- The supervisor with a vst whose groups are all performed but the last one's. -/
def tPart : State :=
  let s := t4 0xFFF0
  let op : VmOp := { ins := .vst (plainVm .f32) 2 1 (.reg 0 0), cap := capture s 0xFFF0 0 12, partly := true
                     regs := some ((descOf (.vst (plainVm .f32) 2 1 (.reg 0 0))).grab s.core), acc := 0, cov := [] }
  { s with core := { s.core with view := .s, vmq := [op], pmask := BitVec.allOnes 1024 <<< 1 } }

theorem witness_FirstFaultAndResume_partial :
    tPart.core.view ≠ .u ∧ tPart.core.viq = [] ∧
    (match tPart.core.vmq with
     | [op] => op.partly && (match vmTry tPart op with
       | .done u [] none => decide (u.core = tPart.core)
       | _ => false)
     | _ => false) = true := by
  and_intros <;> decide +kernel

/-- The page's frame as party 0's, and as the host's. -/
def tHost (va : Word) : State := { t4 va with coh := { Coherence.reset with pages := [⟨0, .host, 0⟩] } }

theorem witness_UpdateOnly :
    (let s := tHost 0xFFFC
     Quiet s ∧ s.core.vmq = [] ∧ (s.sreg 1 + addrXVal s (.reg 0 0)).extractLsb' 48 16 = 0 ∧
     alignedTo (s.sreg 1 + addrXVal s (.reg 0 0)) (utagW .addF32 / 8) = true ∧
     s.check .update (s.sreg 1 + addrXVal s (.reg 0 0)) = .ok (pageAt 0xFFFC) ∧ pageState s.coh 0xFFFC = .host ∧
     aliasDirty s (lineOf 0xFFFC) = false) ∧
    (let s := t4 0xFFF8
     Quiet s ∧ s.core.vmq = [] ∧ (s.sreg 1 + addrXVal s (.reg 0 0)).extractLsb' 48 16 = 0 ∧
     alignedTo (s.sreg 1 + addrXVal s (.reg 0 0)) (utagW .xorB64 / 8) = true ∧
     s.check .update (s.sreg 1 + addrXVal s (.reg 0 0)) = .ok (pageAt 0xFFF8) ∧ pageState s.coh 0xFFF8 ≠ .host ∧
     s.coh.slowU = false ∧ s.coh.ureqs = [] ∧ s.coh.ugrants = [] ∧
     (let u := walkLoads s s.cl s.core.vdid (s.way (pageAt 0xFFF8) (s.sreg 1 + addrXVal s (.reg 0 0)) false)
      linesInSet (getCl u u.cl) (setOf (lineOf 0xFFF8)) < cacheWays (getCl u u.cl))) := by
  unfold Quiet; and_intros <;> decide +kernel

def hostPieces (s : State) (l : List Piece) : Bool :=
  l.all (fun p => match p.dst with
    | .gen x => pageState s.coh x.pa == .host
    | _ => true)

theorem witness_UpdateOnly_vector :
    (let i : Instr := .vustore (plainVm .i32) .addI32 false .core 2 1 (.reg 0 0) none
     Takes (tHost 0xFFF0) i 0 12 ∧ Apart (tHost 0xFFF0) (descOf i) (found (tHost 0xFFF0) i 0 12) ∧
     Unaliased (tHost 0xFFF0) (descOf i) (found (tHost 0xFFF0) i 0 12) ∧ vustoreTy .addI32 .i32 = true ∧
     (activeList (tHost 0xFFF0) 0).all (fun e => hostPieces (tHost 0xFFF0) (found (tHost 0xFFF0) i 0 12 e)) = true) ∧
    (let i : Instr := .vustore (plainVm .n64) .orB64 true .sys 2 1 (.reg 0 0) (some 1)
     Takes (tHost 0xFFE0) i 0 12 ∧ Apart (tHost 0xFFE0) (descOf i) (found (tHost 0xFFE0) i 0 12) ∧
     Unaliased (tHost 0xFFE0) (descOf i) (found (tHost 0xFFE0) i 0 12) ∧
     (activeList (tHost 0xFFE0) 0).all (fun e => hostPieces (tHost 0xFFE0) (found (tHost 0xFFE0) i 0 12 e)) = true) := by
  unfold Takes VmReady Quiet EpIdle Apart; and_intros <;> first | exact unaliased_of (by decide +kernel) | decide +kernel

/-- A line in W whose first byte is written. -/
def tW : State := tcl (fun c => { c with ws := [⟨8, 0x55, 1, 0, 0, 0, 0⟩] })

theorem witness_FencesAndWalks :
    tW.core.vmq = [] ∧ (getCl tW tW.cl).uwaits = [] ∧ (getCl tW tW.cl).ws = [⟨8, 0x55, 1, 0, 0, 0, 0⟩] ∧ findURec tW.coh 8 = none ∧
    aliasDirty tW 8 = false ∧ activeFor tW 8 = none ∧
    (let s := ta 0xFFC0 64
     Quiet s ∧ s.core.vmq = [] ∧ (spanLen s (.reg 2 0)).toNat ≠ 0 ∧ (spanLen s (.reg 2 0)).toNat ≤ 2 ^ 30 ∧
     (s.sreg 1 + spanOff (.reg 2 0)).toNat + (spanLen s (.reg 2 0)).toNat ≤ 2 ^ 48 ∧
     ((s.sreg 1 + spanOff (.reg 2 0)).toNat + (spanLen s (.reg 2 0)).toNat - 1) / 2 ^ 16 = (s.sreg 1 + spanOff (.reg 2 0)).toNat / 2 ^ 16 ∧
     s.check .any (s.sreg 1 + spanOff (.reg 2 0)) = .ok (pageAt 0xFFC0) ∧ pageState s.coh 0xFFC0 ≠ .host ∧ s.vd = some vdT) ∧
    t2.rest.any (fun c => (vdT.excl ||| vdT.shared).getLsbD c.index.val || coreCluster c.index == t2.cl) = true := by
  unfold Quiet; and_intros <;> decide +kernel

/-- Four accumulator tiles and sixteen row lanes wanted; ts0 and ts2 ready, ts1 being filled; a scratchpad in bank 0. -/
def tM : State :=
  let s := tcl (fun c => { c with cbmode := 1 })
  { s with core := { s.core with
      acc := 15, want := 16, s := s.core.s.set 2 0x8000002000000000
      tiles := ((s.core.tiles.set 0 ⟨.ready, 0, 0x12000, 0, none⟩).set 1 ⟨.filling, 0x20000, 0x10000, 1, none⟩).set 2
        ⟨.ready, 0x40000, 0x12000, 0, none⟩ } }

def tMat (m : MatOp) : State := { tM with core := { tM.core with mats := [m] } }

def passOp : MatOp := ⟨.mmul 3 0 (.tile 2) 8 8 64 0, 1, 0, 0, 0, 0, 0, 16, [], .moving⟩

/-- The same with every load of its B worked on. -/
def passEnd : MatOp := { passOp with loads := 1, bs := [⟨1, false⟩] }

/-- The load of a pass's B, and a bucket with tokens. -/
def loadT : BLoad := ⟨false, 0, 0x40000, 8, 0, true, false, (0, 1)⟩
def bucketT (level : Int) : Bucket := ⟨0, 0, 0, level, true, 8, 8, 0, 0, 0, 0⟩

/-- A pass whose B is loaded, of a virtual device with a bucket, at the first edge of its die. -/
def tPass (level : Int) (m : MatOp) : State :=
  let s := tMat m
  { s with
    part := { s.part with
      vds := [{ vdT with rate := { vdT.rate with guaranteed := true } }], buckets := [bucketT level]
      dies := Vector.replicate 4 { Die.reset with edges := 1 } }
    clusters := s.clusters.set 0 { s.clusters[0] with breg := s.clusters[0].breg.set 1 (some loadT) } }

/-- A pass not begun and one begun, with tokens for many lanes and for one. -/
theorem witness_MatrixAttach_grant :
    ∀ level ∈ [(8192 : Int), 1024], ∀ m ∈ [passOp, { passOp with work := 16, bs := [⟨1, false⟩] }],
      let s := tPass level m
      (∀ c ∈ s.rest, c.mats = []) ∧ s.core.run ≠ .off ∧ engFrozen s.core = false ∧
      s.core.mats.Pairwise (fun x y => x.seq ≠ y.seq) ∧ firstPass s.core = some (m, loadT) ∧
      bHeld (getCl s s.cl) (s.core, m, loadT) true = true ∧ (getCl s s.cl).planeAt < (s.part.dies[s.die]).edges ∧
      classThree s.part 0 s.cl.val s.core.vdid = true ∧ findBucket s.part 0 s.cl.val s.core.vdid = some (bucketT level) := by
  decide +kernel

theorem witness_MatrixAttach :
    t0.vd = some vdT ∧ ((0xF10 : Word).extractLsb' 0 5).toNat ≤ 16 ∧ (0xF10 : Word).extractLsb' 5 3 = 0 ∧
    (0xF10 : Word).extractLsb' 12 52 = 0 ∧ (ta 0xF10 0).sreg 1 = 0xF10 ∧ (0xF10 : BitVec 32).zeroExtend 64 = (0xF10 : Word) ∧
    (∀ m ∈ (tMat passOp).core.mats, ∀ z, matZ m.ins = some z → (0x17 : BitVec 6).getLsbD z.val = false) ∧
    (tMat passOp).core.acc.getLsbD 0 = true ∧ (∀ m ∈ (tMat passOp).core.mats, matZ m.ins ≠ some 0) ∧
    (getCl (tPass 0 passOp) 0).breg[(1 : Fin 2)] = some loadT := by
  and_intros <;> decide +kernel

/-- The tile of B at s2, in the scratchpad, passes its check. -/
theorem witness_MatrixIssue_scratch (k : Nat → Out) : spCheck tM (tM.sreg 2) (planeBytes 256 8) k = k (2 ^ 40) := by
  unfold spCheck
  rw [show tagged (tM.sreg 2) = .loc 0x2000000000 from by decide +kernel]
  dsimp only
  rw [if_neg (by decide +kernel), if_neg (by decide +kernel),
    show localCheck tM 0x2000000000 = .ok (.bytes (2 ^ 40)) from by decide +kernel]

theorem witness_MatrixIssue :
    Quiet tM ∧ tM.core.vmq = [] ∧ tM.core.want ≠ 0 ∧ tM.core.tileIn 0 .ready (mpackSrcBytes .i8 false true 64) ∧
    tM.core.tileIn 1 .filling (planeBytes (mpackRows false 64) 25) ∧ (0 : BitVec 6).toNat + (64 : BitVec 7).toNat ≤ 64 ∧
    (63 : BitVec 6).toNat + (1 : BitVec 7).toNat ≤ 64 ∧ tM.core.acc.getLsbD 3 = true ∧
    tM.core.tileIn 0 .ready (planeBytes 64 8) ∧ tM.core.tileIn 2 .ready (planeBytes 256 8) ∧
    tM.core.tileIn 1 .filling 0x10000 ∧ tM.core.tileIn 1 .filling ((64 : BitVec 7).toNat * 256 * drainSize .f32) := by
  unfold Quiet Core.tileIn; and_intros <;> decide +kernel

/-- A member of a collective of one rank, in slot 0. -/
def tColl : State :=
  let s := tMat ⟨.mdrainf 3 0 true, 1, 0, 1, 0, 0, 0, 16, [], .moving⟩
  { s with
    core := { s.core with colls := s.core.colls.set 0 (some ⟨5, 1, 0, 3, 0x80, 0, .dev, 1, 1, false⟩) }
    part := { s.part with colls := [⟨5, 1, [(0, 0)]⟩] } }

theorem witness_MatrixIssue_collective : tColl.core.colls[(0 : Fin 8)] = some ⟨5, 1, 0, 3, 0x80, 0, .dev, 1, 1, false⟩ := by
  decide +kernel

def tMpack : State := tMat ⟨.mpack 1 0 .i8 2 false false 1, 1, 0, 0, 0, 0, 0, 16, [], .moving⟩
def tDrain : State := tMat ⟨.mdrain 1 3, 1, 0, 0, 0, 0, 0, 16, [], .moving⟩
def tDrainX : State := tMat ⟨.mdrainExt 1 3 .bf16 true 64 0, 1, 0, 0, 0, 0, 0, 16, [], .moving⟩

theorem witness_MatrixResults :
    matReady tMpack.core 0 = some ⟨.mpack 1 0 .i8 2 false false 1, 1, 0, 0, 0, 0, 0, 16, [], .moving⟩ ∧
    touchesPoison tMpack.locPoison (tileKey tMpack.core 0) (mpackSrcBytes .i8 false false 1) = false ∧ 2 ≤ (2 : BitVec 5).toNat ∧
    matReady (tMat passOp).core 0 = some passOp ∧ passOpen passOp = true ∧
    matReady (tMat passEnd).core 0 = some passEnd ∧ passOpen passEnd = false ∧
    touchesPoison (tMat passEnd).locPoison (tileKey (tMat passEnd).core 0) (planeBytes (64 : BitVec 7).toNat (8 : BitVec 5).toNat) = false ∧
    (∀ x ∈ passEnd.bs, x.bad = false) ∧ 1 ≤ loadT.planes ∧
    (let m : MatOp := ⟨.mzero 3, 1, 0, 0, 0, 0, 0, 16, [], .moving⟩
     matReady (tMat m).core 0 = some m) ∧
    matReady tDrain.core 0 = some ⟨.mdrain 1 3, 1, 0, 0, 0, 0, 0, 16, [], .moving⟩ ∧
    matReady tDrainX.core 0 = some ⟨.mdrainExt 1 3 .bf16 true 64 0, 1, 0, 0, 0, 0, 0, 16, [], .moving⟩ := by
  and_intros <;> decide +kernel

/-- A descriptor at 0x400: collective 5, one rank, add.f32, a result at 0x80. -/
def collRaw : Nat := 5 + 2 ^ 64 + 3 * 2 ^ 96 + 0x80 * 2 ^ 128

def tDesc (p : Part → Part) (x : Option CollSlot) : State :=
  let s := ta 0x400 0
  { s with
    mem := s.mem.writeList (memKey s.part 0x400) (natBytes 64 collRaw)
    part := p s.part
    core := { s.core with colls := s.core.colls.set 0 x } }

theorem witness_Collectives_lines (p : Part → Part) (x : Option CollSlot) : NoAlias (tDesc p x) := noAlias rfl

theorem witness_Collectives :
    (let s := tDesc (fun p => { p with colls := [⟨5, 1, [(0, 0)]⟩] }) none
     s.core.vmq = [] ∧ (s.sreg 1).extractLsb' 48 16 = 0 ∧ alignedTo (s.sreg 1) 64 = true ∧
     readPieces s (s.check .load) s.cl 1 (s.sreg 1) = .ok collRaw ∧ s.core.colls[(0 : Fin 8)] = none ∧
     findColl s.part (recWord collRaw 0) = some ⟨5, 1, [(0, 0)]⟩ ∧ [((0 : BitVec 24), 0)][recField collRaw 10 2]? = some (0, s.core.index.val)) ∧
    1 ≤ recField collRaw 8 2 ∧ recField collRaw 8 2 ≤ 4096 ∧ recField collRaw 10 2 < recField collRaw 8 2 ∧
    (recField collRaw 12 1 = 3 ∨ recField collRaw 12 1 = 9 ∨ recField collRaw 12 1 = 10) ∧ recField collRaw 13 3 = 0 ∧
    recField collRaw 0x20 32 = 0 ∧ (recWord collRaw 0x10).toNat % 128 = 0 ∧ (recWord collRaw 0x10).extractLsb' 48 16 = 0 ∧
    (tDesc id none).part.fabric = 0 ∧
    (let s := tDesc id none
     readPieces s (s.check .load) s.cl 1 (s.sreg 1) = .ok collRaw ∧ findColl s.part (recWord collRaw 0) = none) ∧
    (let s := tDesc id (some ⟨5, 1, 0, 3, 0x80, 0, .dev, 1, 1, false⟩)
     readPieces s (s.check .load) s.cl 1 (s.sreg 1) = .ok collRaw ∧
     s.core.colls[(0 : Fin 8)] = some ⟨5, 1, 0, 3, 0x80, 0, .dev, 1, 1, false⟩) ∧
    (let s := tDesc (fun p => { p with colls := [⟨5, 1, [(0, 9)]⟩] }) none
     findColl s.part (recWord collRaw 0) = some ⟨5, 1, [(0, 9)]⟩ ∧ ([((0 : BitVec 24), 9)][0]? ≠ some (s.part.fabric, s.core.index.val))) ∧
    collLocal tColl.part ⟨5, 1, [(0, 0)]⟩ = true ∧
    (let s := { tColl with core := { tColl.core with mats := [], colls := tColl.core.colls.set 0 (some ⟨5, 1, 0, 3, 0, 0, .dev, 1, 1, false⟩) } }
     findColl s.part (BitVec.ofNat 64 5) = some ⟨5, 1, [(0, 0)]⟩ ∧ s.core.mats = [] ∧ joinedRanks s 5 ≠ [] ∧
     ∀ x ∈ joinedRanks s 5, x.result = 0 ∧ x.counter = 0) ∧
    (∀ n ∈ [0, 0x8000],
      let s := { tColl with part := { tColl.part with
        colls := [⟨5, 2, [(0, 0), (7, 0)]⟩], vds := [{ vdT with fports := BitVec.ofNat 16 n }] } }
      ownContribution s.core 5 1 0 = some (0, 0) ∧ collLocal s.part ⟨5, 2, [(0, 0), (7, 0)]⟩ = false ∧
      findColl s.part 5 = some ⟨5, 2, [(0, 0), (7, 0)]⟩ ∧ (sendPorts s.part s.core.vdid = [] ↔ n = 0)) ∧
    ownContribution tColl.core 5 1 0 = some (0, 0) ∧ matReady tColl.core 0 = some ⟨.mdrainf 3 0 true, 1, 0, 1, 0, 0, 0, 16, [], .moving⟩ ∧
    ownContribution tColl.core 5 2 0 = none ∧ findColl tColl.part (BitVec.ofNat 64 5) = some ⟨5, 1, [(0, 0)]⟩ ∧
    (∀ k ∈ tColl.part.contribs, ¬ (k.id.toNat = 5 ∧ k.round = 2 ∧ k.rank = 0)) ∧
    (let s := { tColl with core := { tColl.core with mats := [] }, part := { tColl.part with contribs := [⟨5, 1, 0, 3, 0, none⟩] } }
     findColl s.part (BitVec.ofNat 64 5) = some ⟨5, 1, [(0, 0)]⟩ ∧ (∀ k ∈ s.part.contribs, k.dest = none) ∧ s.core.mats = [] ∧
     (∀ c ∈ s.rest, c.mats = []) ∧ (∀ r, r < 1 → ∃ k ∈ s.part.contribs, k.id.toNat = 5 ∧ k.round = 1 ∧ k.rank = r)) := by
  and_intros <;> decide +kernel

/-- s1 the destination 0 and s2 the source 0x40000 of the own store, s3 a shape of one run of 32 bytes. -/
def tC : State := tc (fun c => { c with
  s := (((c.s.set 1 0x8000000000000000).set 2 0x8000000000040000).set 3 (0x20 + 2 ^ 24 + 2 ^ 44)).set 6 0x8000000000020000 })

def copyOf (st : CopySt) : CopyOp := { copyOp (.cpy .dev 1 2 3 0 false 0) 1 2 3 0 false 0 tC with st := st }

def tCopy (st : CopySt) : State := { tC with core := { tC.core with copies := [copyOf st] } }

/-- s3 and s4 of a cpyseg and of a cpyx. -/
def tCseg (sh : Word) : State := { tC with core := { tC.core with s := tC.core.s.set 3 sh } }

theorem witness_baseCheck (k : Unit → Out) :
    baseCheck tC (tC.sreg 1) 32 k = k () ∧ baseCheck tC (tC.sreg 2) 32 k = k () ∧ counterCheck tC (tC.sreg 6) .store k = k () := by
  have h (l : BitVec 40) (n : Nat) (va : Word) (f : Unit → Out) (h1 : tagged va = .loc l) (h2 : localCheck tC l = .ok (.bytes n))
      (a : Nat) (h3 : alignedTo va a = true) : baseCheck tC va a f = f () := by
    unfold baseCheck; rw [h1]; dsimp only; rw [h2]; dsimp only; rw [if_pos h3]
  refine ⟨h 0 0 _ _ (by decide +kernel) (by decide +kernel) _ (by decide +kernel),
    h 0x40000 0x40000 _ _ (by decide +kernel) (by decide +kernel) _ (by decide +kernel), ?_⟩
  unfold counterCheck
  rw [h 0x20000 0x20000 _ _ (by decide +kernel) (by decide +kernel) _ (by decide +kernel)]
  rw [show tagged (tC.sreg 6) = .loc 0x20000 from by decide +kernel]

theorem witness_Copies :
    Quiet tC ∧ tC.core.vmq = [] ∧ tC.core.copies.length < 256 ∧ tC.core.viq = [] ∧ tC.core.isPoisoned 31 = false ∧
    shapeBad (copyOp (.cpy .dev 1 2 3 6 false 0) 1 2 3 6 false 0 tC) = false ∧
    shapeBad (copyOp (.cpyseg .dev 1 2 3 0 8 3 true 31 false 0) 1 2 3 0 false 0 (tCseg 4)) = false ∧
    shapeBad (copyOp (.cpyx .dev 1 2 3 0 31 false 0) 1 2 3 0 false 0 (tCseg (4 + 32 * 2 ^ 16))) = false ∧
    (let s := tCopy .moving
     s.core.copies[0]? = some (copyOf .moving) ∧ (copyOf .moving).ins = .cpy .dev 1 2 3 0 false 0 ∧ (copyOf .moving).tile = none ∧
     (copyOf .moving).ctr = none ∧ (copyOf .moving).done = 0 ∧ engFrozen s.core = false ∧
     (copyOf .moving).dst = 0x8000000000000000 + BitVec.ofNat 64 0 ∧ (copyOf .moving).src = 0x8000000000000000 + BitVec.ofNat 64 0x40000 ∧
     cpyN0 (copyOf .moving) = 32 ∧ cpyN1 (copyOf .moving) = 1 ∧ cpyN2 (copyOf .moving) = 1 ∧
     touchesPoison s.locPoison (coreKey s.core.index.val 0x40000) 32 = false) ∧
    (let s := tCopy (.stopped 8 3 0x1000 0 false)
     s.core.copies[0]? = some (copyOf (.stopped 8 3 0x1000 0 false)) ∧ s.core.view ≠ .s ∧ s.core.run ≠ .yielded ∧
     entryWaits s = false ∧ copyRepair 8 = true ∧ copyRepair 9 = false ∧
     s.core.held = false ∧ ∀ y ∈ s.core.copies, y.seq = (copyOf (.stopped 8 3 0x1000 0 false)).seq → y = copyOf (.stopped 8 3 0x1000 0 false)) ∧
    (let s := { tCopy (.stopped 8 3 0x1000 0 true) with core := { (tCopy (.stopped 8 3 0x1000 0 true)).core with view := .s } }
     s.core.view ≠ .u ∧ (s.core.copies.filter isStopped)[(s.sreg 0).toNat]? = some (copyOf (.stopped 8 3 0x1000 0 true)) ∧
     (s.core.copies.filter isStopped)[(s.sreg 1).toNat]? = none ∧ Quiet s ∧ releaseWaits s = false) := by
  unfold Quiet; and_intros <;> decide +kernel

/-- ts1 at the end of the store's first half; s1 and s2 a region behind it, s3 one that meets it. -/
def tT (st : TileSt) : State := tc (fun c => { c with
  s := ((c.s.set 1 0x40000).set 2 0x40000).set 3 0x3FFE0, tiles := c.tiles.set 1 ⟨st, 0x20000, 0x20000, 1, none⟩ })

theorem witness_Tiles :
    (let s := tT .ready
     (s.sreg 1).toNat % 32 = 0 ∧ (s.sreg 2).toNat % 32 = 0 ∧ (s.sreg 2).toNat ≠ 0 ∧ (s.sreg 1).toNat + (s.sreg 2).toNat ≤ 0x80000 ∧
     (s.core.tiles[(63 : TSlot)]).st = .empty ∧ dflag s 1 = false ∧
     (∀ y : TSlot, (s.core.tiles[y]).st = .empty ∨ (s.sreg 1).toNat + (s.sreg 2).toNat ≤ (s.core.tiles[y]).base ∨
       (s.core.tiles[y]).base + (s.core.tiles[y]).len ≤ (s.sreg 1).toNat) ∧
     (s.sreg 3).toNat % 32 = 0 ∧ (s.sreg 3).toNat + (s.sreg 2).toNat ≤ 0x80000 ∧ (s.core.tiles[(1 : TSlot)]).st ≠ .empty ∧
     (s.core.tiles[(1 : TSlot)]).base < (s.sreg 3).toNat + (s.sreg 2).toNat ∧
     (s.sreg 3).toNat < (s.core.tiles[(1 : TSlot)]).base + (s.core.tiles[(1 : TSlot)]).len ∧
     (s.core.tiles[(1 : TSlot)]).st = .ready ∧ (s.core.tiles[(1 : TSlot)]).stamp = none ∧ tileBusy s.core 1 = false) ∧
    ((tT .filling).core.tiles[(1 : TSlot)]).st ≠ .ready ∧
    (let s := tT .draining
     (s.core.tiles[(1 : TSlot)]).st = .draining ∧ (s.core.tiles[(1 : TSlot)]).stamp = none ∧ tileBusy s.core 1 = false) := by
  and_intros <;> decide +kernel

/-- A stream of the own store on q0, and one of a page that is not present on q1, stopped on q2. -/
def tStr : State := tc (fun c => { c with
  s := (c.s.set 1 0x8000000000000000).set 2 (32 + 2 ^ 16)
  streams := ((c.streams.set 0 (some ⟨0x8000000000000000, 32, 32, 8, 1, 0, none⟩)).set 1 (some ⟨0x10000, 32, 32, 8, 1, 0, none⟩)).set 2
    (some ⟨0x10000, 32, 32, 8, 1, 0, some (8, 0x10000)⟩) })

theorem witness_StreamsAndCounters_base (k : Unit → Out) : baseCheck tStr (tStr.sreg 1) 1 k = k () := by
  unfold baseCheck
  rw [show tagged (tStr.sreg 1) = .loc 0 from by decide +kernel]
  dsimp only
  rw [show localCheck tStr 0 = .ok (.bytes 0) from by decide +kernel]
  dsimp only
  rw [if_pos (by decide +kernel)]

theorem witness_StreamsAndCounters_lines : NoAlias tStr := noAlias rfl

theorem witness_StreamsAndCounters :
    Quiet tStr ∧ tStr.core.vmq = [] ∧ 32 ≤ ((tStr.sreg 2).extractLsb' 0 16).toNat ∧ ((tStr.sreg 2).extractLsb' 0 16).toNat ≤ 4096 ∧
    ((tStr.sreg 2).extractLsb' 0 16).toNat % 2 ^ 3 = 0 ∧ (tStr.sreg 2).extractLsb' 16 32 ≠ 0 ∧ (tStr.sreg 2).extractLsb' 48 16 = 0 ∧
    tStr.core.streams[(3 : Fin 4)] = none ∧ tStr.core.vq[(3 : Fin 4)] = [] ∧
    tStr.core.streams[(0 : Fin 4)] = some ⟨0x8000000000000000, 32, 32, 8, 1, 0, none⟩ ∧ (tStr.core.vq[(0 : Fin 4)]).length < 4 ∧
    engFrozen tStr.core = false ∧ readEntry tStr (bytePieces 200 0x8000000000000000 32 0) = .ok (tStr, 0, 0) ∧
    tStr.core.streams[(1 : Fin 4)] = some ⟨0x10000, 32, 32, 8, 1, 0, none⟩ ∧
    (match readEntry tStr (bytePieces 200 0x10000 32 0) with | .fault _ k l a => k == 8 && l == 3 && a == 0x10000 | _ => false) = true ∧
    tStr.core.streams[(2 : Fin 4)] = some ⟨0x10000, 32, 32, 8, 1, 0, some (8, 0x10000)⟩ ∧ tStr.core.vq[(2 : Fin 4)] = [] ∧
    tStr.core.entry = none ∧ (capture t0 0 0 12).sup = false ∧ 34 ∈ popCodes (.vadd (fx .i8) 1 (.q 2) (.src (.v 2))) ∧
    34 ∉ popCodes (.vadd (fx .i8) 1 (.q 1) (.src (.v 2))) ∧
    (let s := ta 0x8000000000000008 1
     s.core.vmq = [] ∧ tagged (s.sreg 1) = .loc 8 ∧ localCheck s 8 = .ok (.bytes 8) ∧ alignedTo (s.sreg 1) 8 = true ∧
     touchesPoison s.locPoison 8 8 = false ∧ s.core.wait = .none ∧ (regLitVal s (.reg 0)).toNat ≤ s.loc.readN 8 8 ∧
     s.loc.readN 8 8 < (regLitVal s (.reg 2)).toNat ∧ Quiet s) ∧
    (let s := ta 0xFFF8 2
     Quiet s ∧ s.core.vmq = [] ∧ tagged (s.sreg 1) = .gen 0xFFF8 ∧ (0xFFF8 : Word).extractLsb' 48 16 = 0 ∧
     alignedTo (s.sreg 1) 8 = true ∧ alignedTo 0xFFF8 8 = true ∧ touchesPoison s.poison (memKey s.part 0xFFF8) 8 = false ∧
     aliasDirty s (lineOf 0xFFF8) = false ∧ s.core.wait = .none ∧ s.check .load 0xFFF8 = .ok (pageAt 0xFFF8) ∧
     s.check .atomic 0xFFF8 = .ok (pageAt 0xFFF8) ∧ (regLitVal s (.reg 0)).toNat ≤ s.mem.readN (memKey s.part 0xFFF8) 8 ∧
     s.mem.readN (memKey s.part 0xFFF8) 8 < (regLitVal s (.reg 2)).toNat) ∧
    (let s := { ta 0xFFF8 0 with core := { (ta 0xFFF8 0).core with wait := .counter 8 true 1 true } }
     s.core.wait = .counter 8 true 1 true ∧ ∀ i : Fin 2, watchMatches s.core i (s.sreg 1) 8 false = false) := by
  unfold Quiet; and_intros <;> decide +kernel

/-- The sequencer at work with h1 an address and h2 a length. -/
def tA (va n : Word) (f : Advice → Advice) : State :=
  tc (fun c => { c with adv := f { c.adv with st := .running, h := (c.adv.h.set 1 va).set 2 n } })

theorem witness_Advice_lines : Quiet (tA 0xFFF0 16 id) ∧ NoAlias (tA 0xFFF0 16 id) ∧ Quiet (tA 0xFF80 128 id) ∧ NoAlias (tA 0xFF80 128 id) :=
  ⟨by unfold Quiet; decide +kernel, noAlias rfl, by unfold Quiet; decide +kernel, noAlias rfl⟩

theorem witness_AdviceRegisters :
    (tA 0 0 id).core.adv.h[(2 : HReg)] = 0 ∧
    (tA 0xFFF0 16 id).core.adv.h[(2 : HReg)] ≠ 0 ∧ ((tA 0xFFF0 16 id).core.adv.h[(2 : HReg)]).toNat ≤ 2097152 ∧
    advRangeOk (tA 0xFFF0 16 id) (tA 0xFFF0 16 id).core.adv.h[(1 : HReg)] ((tA 0xFFF0 16 id).core.adv.h[(2 : HReg)]).toNat = true ∧
    (tA 5 5 id).core.adv.h[(1 : HReg)] = (tA 5 5 id).core.adv.h[(2 : HReg)] ∧
    (tA 5 6 id).core.adv.h[(1 : HReg)] ≠ (tA 5 6 id).core.adv.h[(2 : HReg)] ∧
    (∃ e ∈ (tA 0 0 (fun g => { g with cpri := [(true, 5, 9)] })).core.adv.cpri, ¬ (e.1 = true ∧ e.2.1 = 6)) ∧
    (tA 0 0 (fun g => { g with cpri := [(true, 5, 9)] })).core.adv.cpri.length < 8 := by
  and_intros <;> decide +kernel

/-- An index read of the page in flight, its line in the cluster. -/
def tRead (age : Nat) : State :=
  let s := tA 0 0 (fun g => { g with ldidx := some ⟨some 3, 0xFFF8, 8, age, 0⟩ })
  { s with clusters := s.clusters.set 0 { s.clusters[0] with lines := [⟨0x1FF, .e, 0⟩] } }

theorem witness_AdviceMemory :
    (let s := tA 0xFF80 128 id
     s.core.adv.h[(2 : HReg)].toNat ≠ 0 ∧ s.core.adv.h[(2 : HReg)].toNat ≤ 65536 ∧ advRangeOk s 0xFF80 128 = true ∧
     ((0xFF80 : Word).toNat + 128 - 1) / 2 ^ 16 = (0xFF80 : Word).toNat / 2 ^ 16 ∧
     s.translate .any 0xFF80 = .ok (pageAt 0xFF80) ∧ alignedTo 0xFF80 (2 ^ 3) = true ∧ advRangeOk s 0xFF80 (2 ^ 3) = true ∧
     alignedTo 0xFF81 (2 ^ 3) = false) ∧
    (tA 0xFF80 0 id).core.adv.h[(2 : HReg)].toNat = 0 ∧
    advRangeOk (tA 0xFFFF 2 id) 0xFFFF 2 = false ∧ advRangeOk (tA 0xFFFF 2 id) 0xFFFF (2 ^ 1) = false ∧
    (let s := tRead 65535
     s.core.adv.ldidx = some ⟨some 3, 0xFFF8, 8, 65535, 0⟩ ∧ Quiet s ∧
     translateAt s s.cl s.core.tlb 0 .load 0xFFF8 = .ok (pageAt 0xFFF8) ∧ s.coh.persist = [] ∧
     pageState s.coh (lineOf 0xFFF8 * 128) ≠ .host ∧ frameClosed s.coh (lineOf 0xFFF8 * 128) = false ∧
     touchesPoison s.poison (memKey s.part (lineOf 0xFFF8 * 128)) 128 = false ∧
     (findLine (getCl s s.cl) (lineOf 0xFFF8)).isSome = true ∧ aliasDirty s (lineOf 0xFFF8) = false) ∧
    (tRead 65536).core.adv.ldidx = some ⟨some 3, 0xFFF8, 8, 65536, 0⟩ ∧
    (let q : AdvReq := ⟨1, 0x1FF, .mid, 65536, 0⟩
     let s := tA 0 0 (fun g => { g with reqs := [q], acts := 1 })
     s.core.adv.ldidx = none ∧ s.core.adv.reqs.find? (fun q => decide (65536 ≤ q.age)) = some q ∧ q.vdid = s.core.vdid ∧
     q.act ∉ s.core.adv.skipped ∧
     q.act ∈ (tA 0 0 (fun g => { g with reqs := [q], acts := 1, skipped := [1] })).core.adv.skipped) ∧
    (tA 0 0 (fun g => { g with st := .loading, aentry := 1 })).core.adv.st = .loading ∧
    (tA 0 0 (fun g => { g with st := .loading, aentry := 1 })).core.adv.aentry.extractLsb' 0 2 ≠ 0 := by
  unfold Quiet; and_intros <;> decide +kernel

/-- A record of virtual device 3 with core 8, and its rate record of no guarantees. -/
def vdRaw (op dkey : Nat) : Nat := 3 + op * 2 ^ 8 + 0x800 * 2 ^ 128 + 64 * 2 ^ 320 + 64 * 2 ^ 352 + dkey * 2 ^ 448 + 2 ^ 1032
def rateRaw : Nat := 2 * 2 ^ 8 + 15 * 2 ^ 576 + 15 * 2 ^ 640 + 15 * 2 ^ 704 + 15 * 2 ^ 768

def tI (op dkey : Nat) (p : Part → Part) : State :=
  { t0 with
    part := p t0.part
    mem := (t0.mem.writeList (memKey t0.part 0x400) (natBytes 512 (vdRaw op dkey))).writeList (memKey t0.part 0x800) (natBytes 128 rateRaw) }

theorem witness_CommandWindows_install :
    Quiet (tI 1 5 id) ∧ (0x400 : Word).toNat % 512 = 0 ∧ spanOk (tI 1 5 id).part (winPart (tI 1 5 id).part 15).val 0x400 512 = true ∧
    homeRead (tI 2 5 id) 0x400 512 = (vdRaw 2 5, false) ∧ 1 < recField (vdRaw 2 5) 1 1 ∧
    homeRead (tI 1 5 id) 0x400 512 = (vdRaw 1 5, false) ∧ recField (vdRaw 1 5) 1 1 = 1 ∧ vdFieldsOk (vdRaw 1 5) = true ∧
    spanOk (tI 1 5 id).part (winPart (tI 1 5 id).part 15).val (recField (vdRaw 1 5) 0x010 8) 128 = true ∧
    homeRead (tI 1 5 id) (recField (vdRaw 1 5) 0x010 8) 128 = (rateRaw, false) ∧
    (let d := parseVd (vdRaw 1 5) (BitVec.ofNat 4 0) (parseRate rateRaw) none
     findVd (tI 1 5 id).part d.vdid = none ∧
     rateOk (maskCores (((tI 1 5 id).part.vds.filter (fun x => x.part == d.part)).foldl (fun m x => m ||| x.shared) d.shared)).length rateRaw = true ∧
     sumsOk (tI 1 5 id).part.vds d = true ∧ coresBad (tI 1 5 id).part 0 d = false ∧ (tI 1 5 id).part.vds.any (clashes d) = false ∧
     (d.excl ||| d.shared).getLsbD 8 = true) ∧
    winPart (tI 1 5 id).part 15 = 0 := by
  unfold Quiet; and_intros <;> decide +kernel

/-- The same beside a virtual device with the dump key's slot, and in a part of one cluster. -/
theorem witness_CommandWindows_refused :
    homeRead (tI 1 0 id) 0x400 512 = (vdRaw 1 0, false) ∧ vdFieldsOk (vdRaw 1 0) = true ∧
    (let d := parseVd (vdRaw 1 0) (BitVec.ofNat 4 0) (parseRate rateRaw) none
     findVd (tI 1 0 id).part d.vdid = none ∧ sumsOk (tI 1 0 id).part.vds d = true ∧ coresBad (tI 1 0 id).part 0 d = false ∧
     (tI 1 0 id).part.vds.any (clashes d) = true ∧
     coresBad (tI 1 0 (fun p => { p with present := 1 })).part 0 d = true ∧
     sumsOk (tI 1 0 (fun p => { p with present := 1 })).part.vds d = true) := by
  and_intros <;> decide +kernel

theorem witness_CommandWindows :
    findVd t0.part ((5 : Word).extractLsb' 0 6) = none ∧ findVd t0.part ((0 : Word).extractLsb' 0 6) = some vdT ∧
    vdT.part.toNat = (winPart t0.part 0).val ∧
    (let s := tRec recRaw
     Quiet s ∧ alignedTo 0x400 64 = true ∧ readPieces s (vdCheck s vdT .load) (vdCluster vdT) 4 0x400 = .ok recRaw ∧
     (vdT.queues[(parseRecord recRaw).prio]).length < 64 ∧ recordOk recRaw = true ∧ canPlace vdT (parseRecord recRaw) = true ∧
     (parseRecord recRaw).fin = 0 ∧ (parseRecord recRaw).deps.all (fun x => x.1 == 0) = true ∧ countLive s.part vdT vdT.count = false) ∧
    (1 < (2 : Word).toNat ∧ (1 : Word).toNat ≤ 1 ∧ (t0.part.parts[winPart t0.part 0]).clock = false) ∧
    (let s := tp (fun p => { p with parts := p.parts.set 0 ⟨0xFFFF, [], true⟩ })
     (s.part.parts[winPart s.part 0]).clock = true ∧ s.part.lockedClock = false ∧ Quiet s ∧ s.core.lmap = 0xFFFFFFFF) ∧
    (let s := tp (fun p => { p with parts := p.parts.set 0 ⟨0xFFFF, [], true⟩, lockedClock := true })
     (s.part.parts[winPart s.part 0]).clock = true ∧ s.part.lockedClock = true ∧ Quiet s) ∧
    (63 : Word).toNat ≤ 63 ∧ spanOk t0.part (winPart t0.part 0).val (0xFFE0 : Word).toNat 32 = true ∧
    (∀ k ∈ t0.part.keys, k.slot = (63 : Word).toNat → k.part = BitVec.ofNat 4 (winPart t0.part 0).val) := by
  unfold Quiet; and_intros <;> decide +kernel

/-- A descriptor of collective 5 with one rank, at 0x400. -/
def tReg (c : List Collective) (x : Option CollSlot) : State :=
  { t0 with
    mem := t0.mem.writeList (memKey t0.part 0x400) (natBytes 24 (5 + 2 ^ 64 + 7 * 2 ^ 128))
    part := { t0.part with colls := c }
    core := { t0.core with colls := t0.core.colls.set 0 x } }

theorem witness_CommandWindows_collectives :
    (let s := tReg [] none
     let h := 5 + 2 ^ 64
     Quiet s ∧ spanOk s.part (winPart s.part 0).val 0x400 16 = true ∧ homeRead s 0x400 16 = (h, false) ∧ recWord h 0 ≠ 0 ∧
     recField h 8 2 ≠ 0 ∧ recField h 8 2 ≤ 4096 ∧ recField h 0x0A 6 = 0 ∧
     spanOk s.part (winPart s.part 0).val 0x400 (16 + 8 * recField h 8 2) = true ∧
     ((List.range (recField h 8 2)).map (fun i => homeRead s (0x400 + 16 + 8 * i) 8)).all (fun x => !x.2 && decide (x.1 < 2 ^ 34)) = true ∧
     findColl s.part (recWord h 0) = none ∧ s.part.colls.length < 256) ∧
    (let s := tReg [⟨5, 1, [(7, 0)]⟩] none
     findColl s.part (recWord (5 + 2 ^ 64) 0) ≠ none ∧ isJoined s 5 = false ∧ Quiet s ∧ homeRead s 0x400 16 = (5 + 2 ^ 64, false)) ∧
    (let s := tReg [⟨5, 1, [(7, 0)]⟩] (some ⟨5, 1, 0, 3, 0, 0, .dev, 0, 0, false⟩)
     findColl s.part 5 ≠ none ∧ isJoined s 5 = true ∧ Quiet s) := by
  unfold Quiet; and_intros <;> decide +kernel

/-- Nothing keeps a command of those states waiting. -/
theorem witness_CommandWindows_lines :
    (∀ op k p, NoAlias (tI op k p) ∧ (tI op k p).coh.persist = [] ∧ (tI op k p).coh.hand.status ≠ 1) ∧
    (∀ f, NoAlias (tp f) ∧ (tp f).coh.persist = [] ∧ (tp f).coh.hand.status ≠ 1) ∧
    (∀ raw, NoAlias (tRec raw) ∧ (tRec raw).coh.persist = [] ∧ (tRec raw).coh.hand.status ≠ 1) ∧
    (∀ c x, NoAlias (tReg c x) ∧ (tReg c x).coh.persist = [] ∧ (tReg c x).coh.hand.status ≠ 1) := by
  refine ⟨fun _ _ _ => ⟨noAlias rfl, rfl, ?_⟩, fun _ => ⟨noAlias rfl, rfl, ?_⟩, fun _ => ⟨noAlias rfl, rfl, ?_⟩,
    fun _ _ => ⟨noAlias rfl, rfl, ?_⟩⟩ <;> (show Coherence.reset.hand.status ≠ 1; decide)

/-- The region of the buffer in a host-owned page. -/
def tLoad : State :=
  { tA 0 0 (fun g => { g with st := .loading, aentry := 0x4000 }) with coh := { Coherence.reset with pages := [⟨0, .host, 0⟩] } }

theorem witness_AdviceMemory_load :
    tLoad.coh.dirty = [] ∧ Quiet tLoad ∧ tLoad.core.adv.st = .loading ∧ tLoad.core.adv.aentry.extractLsb' 0 2 = 0 ∧
    (match readRegion 256 (tLoad.core.adv.aentry &&& ~~~0x1FFF) tLoad [] with
     | .ok _ l => tableOk { tLoad.core.adv with buffer := l }
     | _ => false) = true := by
  unfold Quiet; and_intros <;> decide +kernel

def launchT : Launch := { cgid := 1, addr := 0x400, lr := parseRecord recRaw, pid := 0, tid := 0 }

def groupT : Group := {
  cgid := 1, vdid := 0, pid := 0, tid := 0, addr := 0x400, lr := parseRecord recRaw, mask := 1, wave := 0, first := 0, live := 1, st := .running, preempt := false, stopped := false, saved := [], kept := [], keptPoison := [],
  killed := false, order := 0 }

/-- One launch queued at priority 0, its core free. -/
def tQueued : State := { tv (fun d => { d with queues := d.queues.set 0 [launchT] }) with core := Core.reset 0 }

/-- A group in the part, the active core in it. -/
def tGroup (g : Group) : State := { tp (fun p => { p with groups := [g] }) with core := { t0.core with cgid := 1 } }

def packed (r : Bool) (dies : BitVec 4) : State :=
  { tp (fun p => { p with groups := [groupT], packets := [⟨1, 0, r, dies⟩] }) with core := Core.reset 0 }

theorem witness_GroupsStart :
    (let d := { vdT with queues := vdT.queues.set 0 [launchT] }
     tQueued.part.vds = [d] ∧ d.queues[(0 : Fin 8)] = [launchT] ∧ (∀ i : Fin 8, i ≠ 0 → d.queues[i] = []) ∧
     (∀ i : Fin 8, d.resume[i] = []) ∧ tQueued.deps = [] ∧
     ((assignWave launchT.lr (freeFor tQueued d) 0).1).map (·.2) = [0]) ∧
    (∀ r ∈ [true, false], ∀ m ∈ [(1 : BitVec 4), 0xF],
      packetDie (packed r m).part = some 0 ∧ (packed r m).part.packets.find? (fun x => x.dies.getLsbD 0) = some ⟨1, 0, r, m⟩ ∧ findGroup (packed r m).part 1 = some groupT ∧
      findVd (packed r m).part 0 = some vdT ∧ wantsScrub (packed r m) vdT 0 = false ∧ ((packed r m).getCore 0).run = .off) ∧
    (assignWave groupT.lr (maskCores groupT.mask) 0).1 = [(0, 0)] ∧
    (let g := { groupT with live := 0 }
     findGroup (tGroup g).part 1 = some g ∧ wantsWave g = true ∧ (tGroup g).part.packets = []) ∧
    (let g := { groupT with killed := true }
     findGroup (tGroup g).part 1 = some g ∧ recsOf (tGroup g).part g.vdid false = [] ∧ g.lr.fin = 0 ∧ Quiet (tGroup g) ∧
     (let s := { tGroup g with part := { (tGroup g).part with recs := [⟨0, false, 5⟩] } }
      findGroup s.part 1 = some g ∧ recsOf s.part g.vdid false ≠ [])) ∧
    (let g := { groupT with killed := true, lr := { groupT.lr with fin := 0x8000 } }
     findGroup (tGroup g).part 1 = some g ∧ findVd (tGroup g).part 0 = some vdT ∧ Quiet (tGroup g) ∧
     recsOf (tGroup g).part g.vdid false = [] ∧ vdCheck (tGroup g) vdT .store g.lr.fin = .ok (pageAt 0x8000) ∧
     touchesPoison (tGroup g).poison (memKey (tGroup g).part 0x8000) 8 = false ∧ aliasDirty (tGroup g) (lineOf 0x8000) = false) := by
  unfold Quiet; and_intros <;> decide +kernel

theorem witness_GroupsYield :
    (let g := { groupT with preempt := true }
     findGroup (tGroup g).part g.cgid = some g ∧ findVd (tGroup g).part g.vdid = some vdT ∧ (tGroup g).core.cgid = g.cgid ∧
     (tGroup g).rest = [] ∧ (tGroup g).core.run = .running ∧ (tGroup g).core.view ≠ .s ∧ (tGroup g).core.held = false ∧
     (tGroup g).core.wait = .none ∧ g.stopped = false ∧ vdT.budget ≠ 0 ∧ g.lr.budget = 0 ∧
     (tGroup g).core.stripNs < vdT.budget * 1000) ∧
    (let g := { groupT with preempt := true }
     let s := { tGroup g with core := { (tGroup g).core with stripNs := vdT.budget * 1000 } }
     findGroup s.part g.cgid = some g ∧ (if g.lr.budget = 0 then vdT.budget else g.lr.budget) * 1000 ≤ s.core.stripNs) ∧
    (let g := { groupT with st := .saving, preempt := true }
     let s := { tGroup g with core := { (tGroup g).core with run := .yielded } }
     findGroup s.part g.cgid = some g ∧ findVd s.part g.vdid = some vdT ∧ s.core.cgid = g.cgid ∧ g.killed = false ∧
     s.core.run = .yielded ∧ (standing (activate s s.core.index)).isSome = true ∧ (∀ m ∈ s.core.mats, m.bs = []) ∧
     (let u := { s with core := { s.core with mats := [passEnd] } }
      findGroup u.part g.cgid = some g ∧ u.core.run = .yielded ∧ u.core.dbg.st = .running ∧ ∃ m ∈ u.core.mats, m.bs ≠ [])) ∧
    (let g := { groupT with preempt := true }
     findGroup (tGroup g).part g.cgid = some g ∧ { (tGroup g).core with view := .s }.view = View.s ∧
     { (tGroup g).core with held := true }.held = true) ∧
    (let g := { groupT with preempt := true, stopped := true }
     findGroup (tGroup g).part g.cgid = some g ∧ g.stopped = true) ∧
    (let c := { t0.core with cgid := 1, run := .yielded }
     let g := { groupT with st := .restoring, saved := [c], kept := [(coreKey 0 0, [1, 2])] }
     findGroup (tGroup g).part g.cgid = some g ∧ findVd (tGroup g).part g.vdid = some vdT ∧ (tGroup g).core.cgid = g.cgid ∧
     (tGroup g).rest = [] ∧ g.keptPoison = []) := by
  and_intros <;> decide +kernel

/-- A bucket of the first arbiter of a kind, its pool, and what stands there. -/
def tB (kind : Nat) (level : Int) (pool : Nat) (l : List ArbReq) : State :=
  tp (fun p => { p with
    vds := [{ vdT with rate := { vdT.rate with guaranteed := true } }]
    buckets := [{ kind := kind, inst := 0, vdid := 0, level := level, guaranteed := true, rate := 1, depth := 4, own := 0, lent := 0, forgiven := 0, upTo := 0 }]
    pools := [{ kind := kind, inst := 0, level := pool, window := 7, upTo := 0 }], areqs := l })

/-- Requests of each class that a grant asks for stand first; a window has ended, or has not. -/
theorem witness_ArbiterRates :
    (∀ level ∈ [(1024 : Int), -4096], (findBucket (tB 2 level 0 []).part 2 0 0).isSome = true) ∧
    (let r : ArbReq := ⟨2, 0, 0, .semantic 3, 2, 0⟩
     nextReq (tB 2 1024 0 [r]).part 2 0 = some (0, r) ∧ reqClass (tB 2 1024 0 [r]).part r = some 3 ∧
     nextReq (tB 2 1023 1024 [r]).part 2 0 = some (0, r) ∧ reqClass (tB 2 1023 1024 [r]).part r = some 4 ∧
     nextReq (tB 2 1023 1023 [r]).part 2 0 = none ∧
     (let q : ArbReq := ⟨2, 0, 0, .semantic 5, 1, 0⟩
      nextReq (tB 2 0 1024 [r, q]).part 2 0 = some (1, q)) ∧
     (let q : ArbReq := ⟨2, 0, 5, .semantic 3, 1, 0⟩
      [q, r].Pairwise (fun x y => x.time ≤ y.time) ∧ r.time = q.time ∧ r.vdid ≤ q.vdid)) ∧
    (let r : ArbReq := ⟨2, 0, 0, .advice, 1, 0⟩
     nextReq (tB 2 1024 0 [r]).part 2 0 = some (0, r) ∧ reqClass (tB 2 1024 0 [r]).part r = some 5) ∧
    (5 : Nat) ∉ ([1, 2, 6] : List Nat) := by
  and_intros <;> decide +kernel

/-- A status region whose slot 1 selects instance 0 of kind 2. -/
def vdW (status : Word) : Vd :=
  { vdT with rate := { vdT.rate with guaranteed := true, status := status, slots := #v[(0xF, 0), (2, 0), (0xF, 0), (0xF, 0)] } }

/-- Window 7 there, n edges of its die since reset. -/
def tWin (n : Nat) (status : Word) : State :=
  let s := tB 2 1024 0 []
  { s with part := { s.part with dies := Vector.replicate 4 { Die.reset with edges := n }, vds := [vdW status] } }

theorem witness_ArbiterRates_windows :
    windowsEnded (tWin 8191 0).part 2 0 ≤ (getPool (tWin 8191 0).part 2 0).window ∧
    (getPool (tWin 8192 0).part 2 0).window < windowsEnded (tWin 8192 0).part 2 0 ∧
    (findBucket (tWin 8192 0).part 2 0 0).isSome = true ∧ findVd (tWin 8192 0).part 0 = some (vdW 0) ∧
    (∀ x ∈ (tWin 8192 0).part.vds, x.rate.status = 0) ∧ (2 : Fin 7).val = 2 ∧
    (let s := tB 6 1024 0 []
     let u := { s with part := { s.part with ns := 8192000, vds := [vdW 0], buckets := s.part.buckets.map (fun (b : Bucket) => { b with upTo := 8192 }) } }
     (getPool u.part 6 0).window < windowsEnded u.part 6 0 ∧ (findBucket u.part 6 0 0).map (·.upTo) = some 8192 ∧
     max 8192 (min (arbClock u.part 6 0) (1024 * ((getPool u.part 6 0).window + 2))) = 8192) ∧
    (let s := tWin 8192 0x2000
     Quiet s ∧ (findBucket s.part 2 0 0).isSome = true ∧ findVd s.part 0 = some (vdW 0x2000) ∧ (vdW 0x2000).rate.status ≠ 0 ∧
     s.part.vds = [vdW 0x2000] ∧ aliasDirty s (lineOf 0x2020) = false ∧
     (∀ i : Fin 4, selects (vdW 0x2000) ((vdW 0x2000).rate.slots[i]).1 2 0 = decide (i = 1)) ∧
     vdCheck s (vdW 0x2000) .store ((vdW 0x2000).rate.status + BitVec.ofNat 64 (32 * 1)) = .ok (pageAt 0x2020)) := by
  unfold Quiet; and_intros <;> decide +kernel

/-- The coherence of `t0` changed. -/
def tk (f : Coherence → Coherence) : State := { t0 with coh := f t0.coh }

/-- Line 0 held in S by cluster 0, and wholly at gateway 0. -/
def tHeld (st : LineSt) : State :=
  { tcl (fun c => { c with lines := [⟨0, st, 0⟩] }) with
    coh := { Coherence.reset with toks := [⟨0, 0, #v[16, 0, 0, 0, 0], 0⟩] } }

/-- A request of gateway 1 for line 0, of cluster 32 or of none. -/
def reqT (cl : Option (Fin 128)) (write : Bool) (fails edges : Nat) : TokReq := ⟨1, cl, 0, 0, write, fails, edges, .semantic 0⟩

/-- A record of line 0 in U, cluster 0 and cluster 1 holding it. -/
def urecT : URec := ⟨0, .addI64, 3, none, 0, none⟩

/-- Line 0 with no request: wholly at home, at the die's gateway, or asked for already. -/
theorem witness_CoherenceEvents_delivered :
    (Quiet t0 ∧ aliasDirty t0 0 = false ∧ pageState t0.coh 0 ≠ .host ∧ pageState t0.coh 0 ≠ .readOnly ∧ frameClosed t0.coh 0 = false ∧
     linesInSet (getCl t0 0) (setOf 0) < cacheWays (getCl t0 0) ∧ findLine (getCl t0 0) 0 = none ∧
     tokensAt t0 0 (clusterDie 0).val = 0 ∧ t0.coh.reqs = [] ∧ persists t0 (dieGw 0) 0 = false) ∧
    (let s := { tHeld .s with clusters := t0.clusters }
     Quiet s ∧ aliasDirty s 0 = false ∧ findLine (getCl s 0) 0 = none ∧ 1 ≤ tokensAt s 0 (clusterDie 0).val ∧
     tokensAt s 0 (clusterDie 0).val = 16 ∧ s.coh.reqs = [] ∧ persists s (dieGw 0) 0 = false ∧ pageState s.coh 0 ≠ .readOnly ∧
     pageState s.coh 0 ≠ .host ∧ frameClosed s.coh 0 = false ∧ linesInSet (getCl s 0) (setOf 0) < cacheWays (getCl s 0)) ∧
    (Quiet (tHeld .s) ∧ aliasDirty (tHeld .s) 0 = false ∧ (findLine (getCl (tHeld .s) 0) 0).isSome = true ∧
     tokensAt (tHeld .s) 0 (clusterDie 0).val = 16) ∧
    (let q : TokReq := ⟨dieGw 0, some 1, 0, 0, true, 0, 0, .semantic 0⟩
     let s := tk (fun c => { c with reqs := [q] })
     Quiet s ∧ aliasDirty s 0 = false ∧ q ∈ s.coh.reqs ∧ q.gw = dieGw 0 ∧ q.line = 0 ∧
     ∀ r ∈ s.coh.reqs, ¬ (r.gw = dieGw 0 ∧ r.line = 0 ∧ r.cl = some 0 ∧ r.write = true)) ∧
    (∀ n ∈ [7, 8], let s := tk (fun c => { c with refusals := [(0, 0, n)] })
     Quiet s ∧ aliasDirty s 0 = false) := by
  unfold Quiet; and_intros <;> decide +kernel

/-- Gateway 1 asks, and is answered, or not: nothing of the line is elsewhere, or its frame is closed. -/
theorem witness_CoherenceEvents_tokens :
    (barredBy t0 1 0 = false ∧ (findTok t0.coh 0).owner ≤ 5 ∧ 1 ≤ tokensAt t0 0 (findTok t0.coh 0).owner) ∧
    (let s := tk (fun c => { c with pages := [⟨0, .readOnly, 0⟩] })
     Quiet s ∧ aliasDirty s 0 = false ∧ pageState s.coh 0 = .readOnly) ∧
    (let q := reqT none true 0 0
     let s := tk (fun c => { c with reqs := [q], hand := ⟨0, 0, 1, 1, 0⟩ })
     Quiet s ∧ aliasDirty s 0 = false ∧ pageState s.coh 0 ≠ .readOnly ∧ frameClosed s.coh 0 = true ∧
     s.coh.reqs.find? (fun x => x.gw == 1 && x.line == 0) = some q) ∧
    (∀ f ∈ [(3, 0), (0, 2048)], ∀ cl ∈ [none, some (32 : Fin 128)],
      let q := reqT cl true f.1 f.2
      let s := tk (fun c => { c with reqs := [q] })
      Quiet s ∧ aliasDirty s 0 = false ∧ s.coh.reqs.find? (fun x => x.gw == 1 && x.line == 0) = some q ∧ tokensAt s 0 1 ≠ 16 ∧
      s.coh.persist = [] ∧ persists s 1 0 = false ∧ frameClosed s.coh 0 = false) ∧
    (∀ write ∈ [true, false], ∀ cl ∈ [none, some (32 : Fin 128)],
      let q := reqT cl write 0 0
      let s := tk (fun c => { c with reqs := [q], toks := [⟨0, 0, #v[0, 16, 0, 0, 0], 1⟩] })
      Quiet s ∧ aliasDirty s 0 = false ∧ s.coh.reqs.find? (fun x => x.gw == 1 && x.line == 0) = some q ∧ tokensAt s 0 1 = 16 ∧
      persists s 1 0 = false ∧ pageState s.coh 0 ≠ .host ∧ pageState s.coh 0 ≠ .readOnly ∧ frameClosed s.coh 0 = false ∧
      s.coh.reqs.erase q = [] ∧ linesInSet (getCl s 32) (setOf 0) < cacheWays (getCl s 32)) := by
  unfold Quiet; and_intros <;> decide +kernel

theorem witness_CoherenceEvents_persistent :
    (∀ l ∈ [[], [(⟨0, .readOnly, 0⟩ : PageEnt)]],
      let p : Persist := ⟨4, 1, some 32, 0, 0, true, false, 0, .semantic 0⟩
      let r : Persist := ⟨4, 2, none, 0, 512, true, false, 0, .semantic 0⟩
      let s := tk (fun c => { c with persist := [r, p], pages := l })
      Quiet s ∧ aliasDirty s 0 = false ∧ p ∈ s.coh.persist ∧ frameClosed s.coh 0 = false ∧
      ∀ q ∈ s.coh.persist, q.active = false ∧ (q ≠ p → frameClosed s.coh (q.line * 128) = false →
        (p.gw.val + 5 - (s.coh.lastServed[p.home] + 1) % 5) % 5 < (q.gw.val + 5 - (s.coh.lastServed[q.home] + 1) % 5) % 5)) ∧
    (let p : Persist := ⟨4, 1, some 32, 0, 0, true, true, 0, .semantic 0⟩
     let s := tk (fun c => { c with persist := [p], toks := [⟨0, 0, #v[0, 16, 0, 0, 0], 1⟩] })
     Quiet s ∧ aliasDirty s 0 = false ∧ s.coh.persist = [p] ∧ p.active = true ∧ tokTotal (findTok s.coh p.line) = 16 ∧
     s.coh.reqs = [] ∧ pageState s.coh 0 ≠ .host ∧ pageState s.coh 0 ≠ .readOnly ∧ frameClosed s.coh 0 = false ∧
     linesInSet (getCl s 32) (setOf 0) < cacheWays (getCl s 32)) ∧
    (let p : Persist := ⟨4, 1, none, 0, 0, true, true, 200000, .semantic 0⟩
     let s := tk (fun c => { c with persist := [p] })
     Quiet s ∧ aliasDirty s 0 = false ∧ p ∈ s.coh.persist ∧ 200000 ≤ p.ns ∧ tokTotal (findTok s.coh 0) = 16 ∧
     (let u := tk (fun c => { c with persist := [p], toks := [⟨0, 0, #v[15, 0, 0, 0, 0], 1⟩] })
      Quiet u ∧ aliasDirty u 0 = false ∧ u.coh.persist = [p] ∧ p.active = true ∧ tokTotal (findTok u.coh 0) ≠ 16 ∧
      tokensAt u 0 (findTok u.coh 0).owner = 0) ∧
     (let u := tk (fun c => { c with persist := [p], hand := ⟨0, 0, 1, 1, 0⟩ })
      Quiet u ∧ aliasDirty u 0 = false ∧ u.coh.persist = [p] ∧ frameClosed u.coh (p.line * 128) = true)) := by
  unfold Quiet; and_intros <;> decide +kernel

theorem witness_CoherenceEvents_outside :
    (let s := tk (fun c => { c with ureqs := [⟨127, 0, .addI64, 0⟩] })
     Quiet s ∧ aliasDirty s 0 = false ∧ s.coh.ureqs = [⟨(127 : Fin 128).val, 0, .addI64, 0⟩] ∧ s.coh.persist = []) ∧
    (t0.coh.persist = [] ∧ window t0.part 0 ≠ .absent ∧ paOk t0.part (t0.part.rootParts[(0 : Fin 4)]).toNat 0 = true ∧
     pageState t0.coh 0 ≠ .readOnly ∧ touchesPoison t0.poison (memKey t0.part 0) 32 = false ∧ frameClosed t0.coh 0 = false) ∧
    (let l : List Byte := List.replicate 512 7
     (0xE00 : Word).toNat % 4096 + (l.take 512).length ≤ 4096 ∧ (∀ j, j < 512 → aliasDirty t0 (lineOf (0xE00 + j)) = false)) ∧
    (let s := tk (fun c => { c with pages := [⟨0, .readOnly, 0⟩] })
     Quiet s ∧ aliasDirty s 0 = false ∧ pageState s.coh 0 = .readOnly ∧ frameClosed s.coh 0 = false) ∧
    (let s := tk (fun c => { c with hand := ⟨0, 0, 1, 1, 0⟩ })
     Quiet s ∧ aliasDirty s 0 = false ∧ frameClosed s.coh (0xFFFF : Word).toNat = true ∧ window s.part 0xFFFF ≠ .absent) ∧
    paOk t0.part (t0.part.rootParts[(0 : Fin 4)]).toNat (2 ^ 63) = false := by
  refine ⟨by unfold Quiet; and_intros <;> decide +kernel, by and_intros <;> decide +kernel,
    ⟨by decide +kernel, fun j _ => noAlias rfl _⟩, by unfold Quiet; and_intros <;> decide +kernel⟩

theorem witness_UpdatesMerge :
    (let y : UWait := ⟨0, .addI64, 8, 5, 0, 0, .prot⟩
     let s := { tcl (fun c => { c with uwaits := [y] }) with
       coh := { Coherence.reset with ugrants := [⟨0, 0, .addI64, 0⟩], urecs := [urecT] } }
     s.coh.ugrants = [⟨(0 : Fin 128).val, 0, .addI64, 0⟩] ∧ findURec s.coh 0 = some urecT ∧ urecT.tag = .addI64 ∧
     urecT.presence.getLsbD 0 = true ∧ urecT.merging = none ∧ (getCl s 0).us = [] ∧ (getCl s 0).uwaits = [y] ∧ y.line = 0 ∧
     linesInSet (getCl s 0) (setOf 0) < cacheWays (getCl s 0)) ∧
    (let u : ULine := ⟨0, .addI64, 7, 0xFF, 0, 0⟩
     let s := { tcl (fun c => { c with us := [u] }) with coh := { Coherence.reset with urecs := [urecT] } }
     findURec s.coh 0 = some urecT ∧ urecT.presence.getLsbD 0 = true ∧ (getCl s 0).us.find? (fun y => y.line == 0) = some u) ∧
    (let u : ULine := ⟨0, .addI64, 7, 0xFF, 0, 0⟩
     ∀ ps ∈ [[(0, u)], [(0, u), (127, u)]],
       let x : URec := ⟨0, .addI64, 0, some ps, 0, none⟩
       findURec (tk (fun c => { c with urecs := [x] })).coh 0 = some x ∧ x.presence = 0 ∧ x.merging = some ps ∧ u.poison = 0 ∧
       aliasDirty (tk (fun c => { c with urecs := [x] })) 0 = false) ∧
    (let x : URec := ⟨0, .addI64, 1, some [], 100000, none⟩
     findURec (tk (fun c => { c with urecs := [x] })).coh 0 = some x ∧ x.merging ≠ none ∧ 100000 ≤ x.ns ∧
     x.presence.getLsbD 0 = true) ∧
    (∀ n ∈ [9999, 10000],
      let w : WLine := ⟨0, 7, 0xFF, 0, 0, 0, n⟩
      let s := tcl (fun c => { c with ws := [w] })
      findWLine (getCl s 0) 0 = some w ∧ w.age = n ∧ aliasDirty s 0 = false ∧ activeFor s 0 = none) ∧
    ((List.finRange 128).all (fun d => d == 0 || (findWLine (getCl t0 d) 0).isNone)) = true ∧ findURec t0.coh 0 = none := by
  and_intros <;> decide +kernel

/-- The active core's debug block changed; its group debugged with flag 0, its log region in the vaults. -/
def td (f : Debug → Debug) : State :=
  let g := { groupT with lr := { groupT.lr with dflags := 1 } }
  let s := tGroup g
  { s with core := { s.core with dbg := f { s.core.dbg with recbase := 0x4000000000 } } }

/-- A vector instruction that reads an empty queue, first of the EP's order, and one that reads v1. -/
def epOpT (a : VSrc) : EpOp := ⟨.ins (.vadd (fx .i8) 1 a (.src (.v 2))), capture t0 0 0 12⟩

/-- A line held by cluster 0 in each way, or by none. -/
theorem witness_Errors_lines :
    (findLine (getCl (tHeld .m) 0) 0 = some ⟨0, .m, 0⟩ ∧ (findLine (getCl (tHeld .m) 0) 0).map (·.st) = some .m) ∧
    (findLine (getCl (tHeld .s) 0) 0 = some ⟨0, .s, 0⟩ ∧ (getCl (tHeld .s) 0).us = [] ∧ findWLine (getCl (tHeld .s) 0) 0 = none) ∧
    (findLine (getCl t0 0) 0 = none ∧ findWLine (getCl t0 0) 0 = none ∧ (getCl t0 0).us = []) ∧
    (let s := tcl (fun c => { c with ws := [⟨0, 7, 1, 0, 0, 0, 0⟩] })
     findLine (getCl s 0) 0 = none ∧ findWLine (getCl s 0) 0 ≠ none) ∧
    (let u : ULine := ⟨0, .addI64, 7, 0xFF, 0, 0⟩
     let s := tcl (fun c => { c with us := [u] })
     findLine (getCl s 0) 0 = none ∧ findWLine (getCl s 0) 0 = none ∧ u ∈ (getCl s 0).us ∧ u.line = 0) ∧
    (let s := { tHeld .m with core := Core.reset 0 }
     s.rest = [] ∧ s.core.run = .off ∧ (findTok s.coh 0).owner = (clusterDie 0).val ∧ otherHolds s 0 0 = false ∧
     findURec s.coh 0 = none ∧ (findLine (getCl s 0) 0).isSome = true) := by
  and_intros <;> decide +kernel

theorem witness_Errors :
    (∀ site ∈ [ParitySite.reg 1, .queue 3, .tileEntry 5], t0.core.run = .running ∧ queuedReader t0.core site = none) ∧
    t0.core.viq = [] ∧ t0.core.vmq = [] ∧
    (let s := tc (fun c => { c with viq := [epOpT (.v 1)] })
     s.core.run = .running ∧ s.core.entry = none ∧ queuedReader s.core (.reg 1) = some (capture t0 0 0 12) ∧
     let u := tc (fun c => { c with viq := [epOpT (.q 3)] })
     queuedReader u.core (.queue 3) = some (capture t0 0 0 12)) ∧
    (tc (fun c => { c with run := .yielded })).core.run = .yielded ∧
    (let m : MatOp := ⟨.mzero 0, 1, 0, 0, 0, 0, 0, 16, [], .moving⟩
     (tc (fun c => { c with mats := [m] })).core.mats.find? (fun m => matZ m.ins == some 0 && m.st == .moving) = some m ∧
     matFills m.ins = none) ∧
    (let m : MatOp := ⟨.mdrain 1 3, 1, 0, 0, 0, 0, 0, 16, [], .moving⟩
     let y : Stamp := ⟨0, 5, 6, 7, 0, 0, 0⟩
     let s := { tMat m with core := { (tMat m).core with tiles := tM.core.tiles.set 1 ⟨.filling, 0x20000, 0x10000, 1, some y⟩ } }
     s.core.mats.find? (fun m => matZ m.ins == some 3 && m.st == .moving) = some m ∧ matFills m.ins = some 1 ∧
     (s.core.tiles[(1 : TSlot)]).stamp = some y) ∧
    (tPass 0 passOp).clusters[0].breg[(1 : Fin 2)] = some loadT ∧
    (∀ k ∈ [LinkKind.dieToDie, .crazan], ∀ n ∈ [1, 2],
      let r : LinkKind × Nat × Nat := (k, 15, n)
      (tp (fun p => { p with retrains := [r] })).part.retrains.find? (fun r => r.1 == k && r.2.1 == 15) = some r) ∧
    (∀ n ∈ [254, 255], ∀ t ∈ [1000000000, 1000000001],
      let u : ScrubUnit := ⟨255, 2 ^ 32 - 1⟩
      let s := tp (fun p => { p with corrected := [⟨u, n, List.replicate n 0⟩], tstamp := BitVec.ofNat 64 t })
      let old := (s.part.corrected.find? (fun x => x.unit == u)).getD ⟨u, 0, []⟩
      old = ⟨u, n, List.replicate n 0⟩ ∧ u.kind < 256 ∧ u.index < 2 ^ 32 ∧
      (old.times.filter (fun x => decide (s.part.tstamp.toNat - x ≤ 1000000000))).length = if t = 1000000000 then n else 0) ∧
    (∀ n ∈ [14, 15],
      let s := tc (fun c => { c with timing := List.replicate n ((31 : Fin 32), 0) })
      (s.core.timing.filter (fun x => x.1 == (31 : Fin 32) && decide (s.part.tstamp.toNat - x.2 ≤ 1000000))).length = n ∧
      s.core.lmap &&& ~~~(BitVec.twoPow 32 31) ≠ 0 ∧ s.core.lmap.getLsbD 31 = true) := by
  and_intros <;> decide +kernel

/-- Die 0 changed, the clock locked or not. -/
def tDie (locked : Bool) (f : Die → Die) : State :=
  tp (fun p => { p with dies := p.dies.set 0 (f p.dies[0]), lockedClock := locked })

theorem witness_PowerAndWatchdogs_dies :
    (∀ ph ∈ [DroopPhase.stretch, .halving, .nominal], ∀ l ∈ [true, false], ∀ n ∈ [0, 1],
      let s := tDie l (fun d => { d with phase := ph, left := n })
      (s.part.dies[(0 : Fin 4)]).phase = ph ∧ (s.part.dies[(0 : Fin 4)]).left = n ∧ s.part.lockedClock = l ∧
      (s.part.dies[(0 : Fin 4)]).halve ≠ 0) ∧
    ((tDie false (fun d => { d with phase := .stretch, halve := 0 })).part.dies[(0 : Fin 4)]).halve = 0 ∧
    (∀ f ∈ [20, 21, 22], ∀ v ∈ [28, 29], ∀ y ∈ [none, some (VfStep.freq true), some (.volt false)],
      let d := (tDie false (fun d => { d with freq := f, target := 21, volt := v, falling := true, step := y })).part.dies[(0 : Fin 4)]
      d.freq = f ∧ d.target = 21 ∧ d.volt = v ∧ d.falling = true ∧ d.step = y) ∧
    (voltFor Die.reset 20 = 28 ∧ voltFor Die.reset 21 = 29 ∧ voltFor Die.reset 22 = 29) := by
  and_intros <;> decide +kernel

theorem witness_PowerAndWatchdogs_ticks :
    (t0.part.watts = [] ∧ t0.part.ticks < 99 ∧ t0.part.fatalHeld = false ∧ t0.part.lockedClock = false ∧ t0.part.overPower = false ∧
     (∀ i : Fin 4, (t0.part.dies[i]).limited = false ∧ (t0.part.dies[i]).hot = false) ∧ (tDie true id).part.lockedClock = true ∧
     (tp (fun p => { p with fatalHeld := true })).part.fatalHeld = true ∧ t0.part.sysHot = false) ∧
    (2400 < 2401 ∧ (∀ i : Fin 5, (#v[94, 94, 94, 94, 99] : Vector Int 5)[i] < 100) ∧ 100 ≤ (#v[94, 94, 94, 94, 100] : Vector Int 5)[(4 : Fin 5)]) ∧
    ((∀ i : Fin 5, (#v[94, 94, 94, 94, 94] : Vector Int 5)[i] < 95) ∧ 95 ≤ (#v[94, 94, 94, 94, 95] : Vector Int 5)[(4 : Fin 5)] ∧
     110 ≤ (#v[94, 94, 94, 94, 110] : Vector Int 5)[(4 : Fin 5)] ∧ (∀ i : Fin 5, (#v[94, 94, 100, 109, 109] : Vector Int 5)[i] < 110) ∧
     100 ≤ (#v[94, 94, 100, 109, 109] : Vector Int 5)[(2 : Fin 5)]) ∧
    (t0.cores.any (fun c => decide ((c.alcCeil + 3) / 4 < c.alcCur))) = true ∧
    (tc (fun c => { c with alcCur := 8 })).cores.all (fun c => decide (c.alcCur ≤ (c.alcCeil + 3) / 4)) = true ∧
    (∀ i : Fin 4, (t0.part.dies[i]).aim ≤ (t0.part.dies[i]).target) ∧
    (let d := (tDie false (fun d => { d with target := 23 })).part.dies[(0 : Fin 4)]
     d.target < d.aim) ∧
    (∀ i : Fin 4, ((tp (fun p => { p with dies := p.dies.map (fun d => { d with hot := true }) })).part.dies[i]).hot = true) := by
  and_intros <;> decide +kernel

theorem witness_PowerAndWatchdogs_cores :
    (∀ n ∈ [4095, 4096], ∀ l ∈ [true, false],
      let s := { tc (fun c => { c with idleEdges := n }) with part := { t0.part with lockedClock := l } }
      s.core.idleEdges = n ∧ s.part.lockedClock = l ∧ s.core.viq.any (fun o => usesLanes o.work) = false) ∧
    ((tc (fun c => { c with viq := [⟨.ins (.vadd (fx .i8) 1 (.v 1) (.src (.v 2))), capture t0 0 0 12⟩] })).core.viq.any
      (fun o => usesLanes o.work)) = true ∧
    (∀ w ∈ [Wait.q6, .push 0, .push 7, .fifo 31, .tile 63 4194303, .tile 63 4194304], ∀ n ∈ [65535, 65536],
      let s := tc (fun c => { c with wait := w, queueEdges := n })
      s.core.run = .running ∧ s.core.held = false ∧ s.core.dbg.st = .running ∧ s.core.view = .u ∧ s.core.entry = none ∧
      queuesUnit s ≠ .active ∧ s.core.wait = w ∧ s.core.queueEdges = n) ∧
    (let s := tc (fun c => { c with wait := .behind, viq := [epOpT (.q 3)], queueEdges := 65536 })
     s.core.run = .running ∧ s.core.held = false ∧ s.core.dbg.st = .running ∧ s.core.view = .u ∧ s.core.entry = none ∧
     deadlocked s = true ∧ apQueue s.core.wait = none ∧ blockedCap s.core = some (capture t0 0 0 12) ∧ 65536 ≤ s.core.queueEdges) ∧
    (∀ n ∈ [99999, 100000],
      let e : Entry := { kind := 22, ret := 4, vector := false, wait := .none, page := none, ns := n, stop := none, bank := Vector.replicate 8 0 }
      let s := { tGroup groupT with core := { (tGroup groupT).core with view := .s, entry := some e } }
      s.core.entry = some e ∧ findGroup s.part s.core.cgid = some groupT ∧ findVd s.part groupT.vdid = some vdT ∧
      groupT.lr.budget = 0 ∧ vdT.budget * 1000 = 100000) := by
  and_intros <;> decide +kernel

theorem witness_DebugBlock :
    (let s := td id
     (findGroup s.part s.core.cgid).isSome = true ∧ s.core.run ≠ .off ∧ s.core.dbg.st ≠ .stopped) ∧
    (let s := td (fun d => { d with st := .stopped, hist := [apSnap t0.core] })
     (findGroup s.part s.core.cgid).isSome = true ∧ s.core.dbg.st = .stopped ∧ recOn s = true ∧ s.core.dbg.viewAt = none ∧
     s.core.dbg.hist = [] ++ [apSnap t0.core]) ∧
    (∀ w ∈ [Wait.full, .q6, .push 7, .tile 63 5, .none, .halt, .other, .clocks 3], ∀ n ∈ [999999, 1000000],
      let s := td (fun d => { d with st := .stepping, stepNs := n })
      let s1 := { s with core := { s.core with wait := w } }
      s1.core.dbg.st = .stepping ∧ s1.core.wait = w ∧ s1.core.dbg.stepNs = n) ∧
    (∀ k ∈ [0, 1],
      let s := td (fun d => { d with st := .stopped, hist := [apSnap t0.core, apSnap t0.core], viewAt := some k })
      s.core.dbg.st = .stopped ∧ recOn s = true ∧ s.core.dbg.viewAt = some k ∧ s.core.dbg.hist.length = 2) := by
  and_intros <;> decide +kernel

theorem witness_DebugBlock_dumps :
    (let s := tp (fun p => { p with keys := [⟨0, [], 0⟩] })
     findVd s.part (BitVec.ofNat 6 0) = some vdT ∧ 0 < 64 ∧ s.part.dump = none ∧ paOk s.part vdT.part.toNat 0x4000000000 = true ∧
     s.part.keys.any (fun k => k.slot == vdT.dkey) = true ∧ s.part.nonce ≠ BitVec.allOnes 64 ∧
     findVd t0.part (BitVec.ofNat 6 0) = some vdT ∧ t0.part.keys = [] ∧ paOk s.part vdT.part.toNat (2 ^ 63) = false) ∧
    (let x : Dump := ⟨0, 0x4000000000, 0, 0⟩
     let s := tp (fun p => { p with keys := [⟨0, [], 0⟩], dump := some x })
     s.part.dump = some x ∧ findVd s.part x.vdid = some vdT ∧ s.part.keys.any (fun k => k.slot == x.slot) = true ∧
     0x2000000000 ≤ x.dest ∧ paOk s.part vdT.part.toNat x.dest = true ∧
     paOk s.part vdT.part.toNat (x.dest + 64 + (nameTable s x.vdid).length - 1) = true) ∧
    (16 ≤ liveLanes (0xFFFF : BitVec 32) ∧ liveLanes (0x7FFF : BitVec 32) < 16) := by
  and_intros <;> decide +kernel

/-- Values of the debug registers inside and outside their forms, and the commands of DBCTL. -/
theorem witness_DebugBlock_values :
    ((0xFFFFD : Word) &&& ~~~(0x0000FFFFFFFFFFFD : Word) = 0 ∧ (0xFFFFF : Word) &&& ~~~(0x0000FFFFFFFFFFFD : Word) ≠ 0) ∧
    ((0xFFFFF : Word) &&& ~~~(0x0000FFFFFFFFFFFF : Word) = 0 ∧ (0x1000000000000 : Word) &&& ~~~(0x0000FFFFFFFFFFFF : Word) ≠ 0) ∧
    ((0xFFFFF : Word) &&& ~~~(0xC0000000001FFFFF : Word) = 0 ∧ (0x200000 : Word) &&& ~~~(0xC0000000001FFFFF : Word) ≠ 0) ∧
    ((1 : Word).extractLsb' 0 3).toNat = 1 ∧ ((5 : Word).extractLsb' 0 3).toNat = 5 ∧ (0 : Word).extractLsb' 0 2 ≠ 3 := by
  and_intros <;> decide

theorem witness_PartAndManagement :
    (State.reset.part.parts[(0 : Fin 16)]).sysCores.getLsbD 15 = true ∧ State.reset.part.vds = [] ∧
    (State.reset.part.parts[(1 : Fin 16)]).sysCores.getLsbD 15 = false ∧
    ((tv id).part.vds.any (fun d => (d.excl ||| d.shared).getLsbD 0)) = true ∧
    State.reset.part.bootHeld = none ∧ State.reset.part.bootStage < 3 ∧ t0.core.view ≠ .s ∧
    tS.core.view = .s ∧ t0.core.viq = [] ∧ t0.core.vmq = [] ∧ earlierRun t0 = false ∧ entryWaits t0 = false ∧ t0.core.run ≠ .yielded ∧
    earlierRun (tc (fun c => { c with viq := [epOpT (.v 1)] })) = true := by
  and_intros <;> decide +kernel

/-- A word where the core fetches: of add s6, s2, 1 (R141). -/
def tWord (w : Nat) : State := { placeWords State.reset (natBytes 4 w) with agenda := [] }

def tAdd : State := tWord 0x20843020

theorem witness_StepRunsDecoded :
    ApMoves tAdd ∧ Quiet tAdd ∧ CodeAt tAdd tAdd.core.pc [0x20843020] ∧ ([] : List IWord).length = lengthOf 0x20843020 - 1 ∧
    decodeWords [0x20843020] = .ok (.add 6 2 (.imm6 1), [(0x20843020 : IWord)].length) ∧
    (ApMoves (tWord 0) ∧ (match fetchInstr (tWord 0) with | .words _ [0] => true | _ => false) = true ∧
      decodeWords [0] = .error .reserved) ∧
    (let s := { tAdd with core := { tAdd.core with pc := 0x10000 } }
     ApMoves s ∧ (match fetchInstr s with | .fault _ f none va => f.kind != 15 && va == 0x10000 | _ => false) = true) ∧
    (t0.core.wait = .none ∧ dflag t0 0 = false ∧ t0.core.dbg.st ≠ .stepping) ∧
    ((tc (fun c => { c with wait := .q6 })).core.wait ≠ .none) ∧ partHeld tAdd = false ∧ windowDue tAdd.part = none := by
  unfold Quiet ApMoves CodeAt
  refine ⟨?_, ?_, ?_, ?_⟩
  rotate_left 2
  · refine ⟨by decide +kernel, by decide +kernel, noAlias (by decide +kernel), ?_⟩
    intro k w h
    match k, h with
    | 0, h =>
      refine ⟨pageAt 0, ?_⟩
      cases h
      and_intros <;> decide +kernel
    | _ + 1, h => cases h
  all_goals and_intros <;> decide +kernel

theorem witness_EncodeDecode :
    (Instr.add 63 63 (.lit true (BitVec.allOnes 64))).wf = true ∧ (Instr.add 63 63 (.lit true (BitVec.allOnes 64))).semantic = true ∧
    decodeWords [0x20843020] = .ok (.add 6 2 (.imm6 1), 1) ∧ (Instr.aLi 31 0xFFFF 3).wf = true ∧
    (encodeAdvice (.aLi 31 0xFFFF 3)).bind decodeAdvice = some (.aLi 31 0xFFFF 3) := by
  and_intros <;> decide +kernel

theorem witness_StepKeepsMemory :
    (tAdd.mem.wf = true ∧ tAdd.loc.wf = true) ∧ (match step tAdd with | .next t => t.core.s[(6 : Fin 64)] == 1 | _ => false) = true := by
  decide +kernel

theorem witness_ElementAddresses :
    (VM.mk .i32 0 false false false).et.isPacked = false ∧ (VM.mk .i32 0 false false false).et.memW / 8 ≤ 4 := by decide +kernel

end Sys2Proof.Tests
end

section
/-! PROOF. Class 2's jumps and branches (R154, R155), and the instructions of time and of nothing (R110, R160, R162, R165). -/

namespace Sys2Proof.Machine

open Sys2Proof

/-! ## Conditions of a branch -/

@[simp] theorem condHolds_eq (x y : Word) : condHolds .eq x y = true ↔ x = y := by simp [condHolds]

@[simp] theorem condHolds_ne (x y : Word) : condHolds .ne x y = true ↔ x ≠ y := by simp [condHolds]

@[simp] theorem condHolds_lt (x y : Word) : condHolds .lt x y = true ↔ x.toInt < y.toInt := by
  simp [condHolds, BitVec.slt_iff_toInt_lt]

@[simp] theorem condHolds_ge (x y : Word) : condHolds .ge x y = true ↔ y.toInt ≤ x.toInt := by
  simp [condHolds, BitVec.slt]

@[simp] theorem condHolds_ltn (x y : Word) : condHolds .ltn x y = true ↔ x.toNat < y.toNat := by
  simp [condHolds, BitVec.ult]

@[simp] theorem condHolds_gen (x y : Word) : condHolds .gen x y = true ↔ y.toNat ≤ x.toNat := by
  simp [condHolds, BitVec.ult]

/-! ## Branches and jumps -/

theorem exec_bcc (c : Cond) (a : SReg) (y : RegLit) (off : BitVec 32) (s : State) :
    exec (.bcc c a y off) s =
      .next (if condHolds c (s.sreg a) (regLitVal s y) then s.goto (branchTarget s off) else s.advance (regLitLen y)) := rfl

/-- A branch whose condition holds exactly where `p` does goes to its target there, and on behind itself elsewhere (R154). -/
theorem bcc_completes_of_iff {c : Cond} {a : SReg} {y : RegLit} {s : State} {p : Prop}
    (h : condHolds c (s.sreg a) (regLitVal s y) = true ↔ p) (off : BitVec 32) :
    (p → Completes (.bcc c a y off) s (fun t => Went s t (s.core.pc + 4 * off.signExtend 64))) ∧
    (¬ p → Completes (.bcc c a y off) s (fun t => Went s t (s.core.pc + BitVec.ofNat 64 (regLitLen y)))) := by
  rw [← h]
  constructor
  · intro hc
    exact ⟨s.goto (branchTarget s off), by rw [exec_bcc, if_pos hc], s.goto_went _⟩
  · intro hc
    exact ⟨s.advance (regLitLen y), by rw [exec_bcc, if_neg hc], s.advance_went _⟩

theorem jumpTo_aligned {s : State} {v : Word} (h : v.extractLsb' 0 2 = 0) (k : State → State) :
    jumpTo s v k = .next ((k s).goto v) := by
  simp [jumpTo, h]

theorem jumpTo_misaligned {s : State} {v : Word} (h : v.extractLsb' 0 2 ≠ 0) (k : State → State) :
    jumpTo s v k =
      .next (takeFault s { kind := 5, pc := s.core.pc, strip := s.core.stripBase, sub := 0, addr := some v }) := by
  have hb : (v.extractLsb' 0 2 != 0) = true := bne_iff_ne.mpr h
  rw [jumpTo, if_pos hb]
  rfl

theorem exec_jmpReg (a : SReg) (s : State) : exec (.jmpReg a) s = jumpTo s (s.sreg a) id := rfl

theorem exec_ret (a : SReg) (s : State) : exec (.ret a) s = jumpTo s (s.sreg a) id := rfl

theorem exec_callReg (d a : SReg) (s : State) :
    exec (.callReg d a) s = jumpTo s (s.sreg a) (fun t => t.setSreg d (s.core.pc + 4)) := rfl

/-- A call is a retired write of the address behind it, then a jump. -/
theorem setSreg_goto_wrote_went (s : State) (d : SReg) (v a : Word) (n : Nat) :
    ∃ u, Wrote s u d v n ∧ Went u ((s.setSreg d v).goto a) a :=
  ⟨s.retire d v n, s.retire_wrote d v n, rfl⟩

theorem jumpReg_completes {a : SReg} {s : State} (h : (s.sreg a).extractLsb' 0 2 = 0) :
    Completes (.jmpReg a) s (fun t => Went s t (s.sreg a)) ∧ Completes (.ret a) s (fun t => Went s t (s.sreg a)) ∧
    ∀ d, Completes (.callReg d a) s (fun t => ∃ u, Wrote s u d (s.core.pc + 4) 4 ∧ Went u t (s.sreg a)) := by
  refine ⟨⟨s.goto (s.sreg a), ?_, s.goto_went _⟩, ⟨s.goto (s.sreg a), ?_, s.goto_went _⟩, fun d =>
    ⟨(s.setSreg d (s.core.pc + 4)).goto (s.sreg a), ?_, setSreg_goto_wrote_went s d _ _ 4⟩⟩
  · rw [exec_jmpReg, jumpTo_aligned h, id]
  · rw [exec_ret, jumpTo_aligned h, id]
  · rw [exec_callReg, jumpTo_aligned h]

theorem jumpReg_faults (d : SReg) {a : SReg} {s : State} (h : (s.sreg a).extractLsb' 0 2 ≠ 0) :
    let t := takeFault s { kind := 5, pc := s.core.pc, strip := s.core.stripBase, sub := 0, addr := some (s.sreg a) }
    exec (.jmpReg a) s = .next t ∧ exec (.callReg d a) s = .next t ∧ exec (.ret a) s = .next t :=
  ⟨(exec_jmpReg a s).trans (jumpTo_misaligned h _), (exec_callReg d a s).trans (jumpTo_misaligned h _),
    (exec_ret a s).trans (jumpTo_misaligned h _)⟩

/-! ## The encoding of a branch -/

/-- What decodes is laid out as it was read: every bit is accounted for (R145). -/
theorem layout_of_decodeRaw {r : Sys2Proof.Raw} {i : Instr} (h : decodeRaw r = some i) : layout i = some r := by
  unfold decodeRaw at h
  split at h
  · split at h
    next j _ hj =>
      obtain rfl : j = i := Option.some.inj h
      exact beq_iff_eq.mp (Bool.and_eq_true_iff.mp hj).2
    next => cases h
  · cases h

/-- Word 1 does not hold word 2: it is zero where every field of it is (R135). -/
theorem word1_of_w2 (w : BitVec 32) : ({ Ext.zero with w2 := w } : Ext).word1 = 0 := by
  show Ext.zero.word1 = 0
  decide

/-! ## Cairns -/

theorem satAdd16_eq_min (x : BitVec 16) (n : Nat) : satAdd16 x n = BitVec.ofNat 16 (min 0xFFFF (x.toNat + n)) := by
  unfold satAdd16
  split
  next h => rw [Nat.min_eq_left (by omega)]; rfl
  next h => rw [Nat.min_eq_right (by omega)]

/-- A sequencer that is off or stopped discards a cairn. -/
theorem postCairn_discarded {c : Core} (h : c.adv.st = .off ∨ c.adv.st = .stopped) (n : BitVec 16) (base : Word) :
    postCairn c n base = c := by
  rcases h with h | h <;> simp [postCairn, h]

/-- A sequencer that goes on takes a cairn: behind those of its FIFO, or alone where the FIFO is full. -/
theorem postCairn_taken {c : Core} (hoff : c.adv.st ≠ .off) (hstop : c.adv.st ≠ .stopped) (n : BitVec 16) (base : Word) :
    postCairn c n base =
      if 64 ≤ c.adv.fifo.length then
        { c with adv := { c.adv with fifo := [(n, base)], overflow := true }
                 advCnt := { c.advCnt with lag := satAdd16 c.advCnt.lag 64 } }
      else { c with adv := { c.adv with fifo := c.adv.fifo ++ [(n, base)] } } := by
  unfold postCairn
  split
  next h => exact absurd h hoff
  next h => exact absurd h hstop
  next => rfl

theorem exec_cairn (n : BitVec 16) (s : State) :
    exec (.cairn n) s = .next ((s.withCore (postCairn s.core n s.core.stripBase)).advance 4) := rfl

/-! ## Waits -/

theorem State.waitAs_self {s : State} {w : Wait} (h : s.core.wait = w) : s.waitAs w = s := by
  subst h; rfl

theorem exec_wait (a : SReg) (s : State) : exec (.wait a) s = execWait a s := rfl

theorem exec_waitTimeout (s : State) : exec .waitTimeout s = execWaitTimeout s := rfl

theorem execWait_expired {s : State} (h : s.core.wait = .clocks 0) (a : SReg) : execWait a s = .next (s.advance 4) := by
  simp [execWait, h, len1]

theorem execWait_running {s : State} {n : Nat} (h : s.core.wait = .clocks (n + 1)) (a : SReg) :
    execWait a s = .next (if preemptPending s then s.advance 4 else s) := by
  simp [execWait, h, len1, State.waitAs_self h]

/-- A wait that begins takes the clk that s[a] states, at most 2^32. -/
theorem execWait_begins {s : State} (h : ∀ n, s.core.wait ≠ .clocks n) (a : SReg) :
    execWait a s = .next (if s.sreg a = 0 ∨ preemptPending s = true then s.advance 4
      else s.waitAs (.clocks (min (s.sreg a).toNat (2 ^ 32)))) := by
  have hz : min (s.sreg a).toNat (2 ^ 32) = 0 ↔ s.sreg a = 0 := by
    rw [← BitVec.toNat_inj, Nat.min_eq_zero_iff]; simp
  unfold execWait
  split
  next h0 => exact absurd h0 (h 0)
  next n _ hn => exact absurd hn (h n)
  next => simp only [← Nat.min_def, Bool.or_eq_true, decide_eq_true_eq, hz, len1]

theorem execWaitTimeout_waiting {s : State} {n : Nat} (h : s.core.wait = .clocks n) :
    execWaitTimeout s = .next (s.advance 4) := by
  simp [execWaitTimeout, h, len1]

theorem execWaitTimeout_idle {s : State} (h : ∀ n, s.core.wait ≠ .clocks n) : execWaitTimeout s = .next s := by
  unfold execWaitTimeout
  split
  next n hn => exact absurd hn (h n)
  next => rfl

/-- Settles O8: each condition of a branch, each form of a jump and of a call, the alignment fault, and what the layout of a
branch says of the fields read. -/
theorem jumpsAndBranches : Obligations.JumpsAndBranches := by
  refine ⟨fun s => ⟨fun c a y off => ?_, fun off => ⟨_, rfl, s.goto_went _⟩,
    fun d off => ⟨_, rfl, setSreg_goto_wrote_went s d _ _ 12⟩, fun a h => jumpReg_completes h⟩,
    fun s d a h => jumpReg_faults d h, fun r c a y off h => ?_⟩
  · cases c with
    | eq => exact bcc_completes_of_iff (condHolds_eq _ _) off
    | ne => exact bcc_completes_of_iff (condHolds_ne _ _) off
    | lt => exact bcc_completes_of_iff (condHolds_lt _ _) off
    | ge => exact bcc_completes_of_iff (condHolds_ge _ _) off
    | ltn => exact bcc_completes_of_iff (condHolds_ltn _ _) off
    | gen => exact bcc_completes_of_iff (condHolds_gen _ _) off
  · have hr : layRL 2 1 0 (regCode a) c.fn y { Ext.zero with w2 := off } = r := Option.some.inj (layout_of_decodeRaw h)
    subst hr
    cases y with
    | reg b => exact ⟨rfl, rfl, word1_of_w2 off, rfl, rfl, by cases c <;> rfl, rfl, rfl⟩
    | lit v => exact ⟨rfl, rfl, word1_of_w2 off, rfl, rfl, by cases c <;> rfl, rfl, rfl⟩

/-- Settles O11: the counters as they stand at issue, and the cases of a cairn, of a wait and of its timeout. -/
theorem timeAndNothing : Obligations.TimeAndNothing := by
  intro s
  refine ⟨⟨⟨_, rfl, s.advance_went 4⟩, ⟨_, rfl, s.advance_went 4⟩⟩, ?discarded, ?posted, ?overflow,
    fun d => ⟨_, rfl, s.retire_wrote d _ 4⟩, fun d => ⟨_, rfl, s.retire_wrote d _ 4⟩, ?expired, ?running, ?begins,
    fun n h => ⟨_, execWaitTimeout_waiting h, s.advance_went 4⟩, fun h => ⟨_, execWaitTimeout_idle h, rfl⟩⟩
  case discarded =>
    intro n h
    refine ⟨_, exec_cairn n s, ?_⟩
    rw [postCairn_discarded h]
    exact s.advance_went 4
  case posted =>
    intro n hoff hstop hroom
    refine ⟨_, exec_cairn n s, ?_⟩
    rw [postCairn_taken hoff hstop, if_neg (Nat.not_le.mpr hroom)]
    rfl
  case overflow =>
    intro n hoff hstop hfull
    refine ⟨_, exec_cairn n s, ?_⟩
    rw [postCairn_taken hoff hstop, if_pos hfull, satAdd16_eq_min]
    rfl
  case expired =>
    intro a h
    exact ⟨_, execWait_expired h a, s.advance_went 4⟩
  case running =>
    intro a n h
    refine ⟨_, execWait_running h a, ?_⟩
    split
    · exact s.advance_went 4
    · rfl
  case begins =>
    intro a h
    refine ⟨_, execWait_begins h a, ?_⟩
    split
    · exact s.advance_went 4
    · rfl

end Sys2Proof.Machine
end
